-- ==== Sys2Proof/Word.lean ====
section
/-!
DEFINITION. The two widths of the block: bytes (registers, bus data) and 16-bit words (SP, PC, pairs, addresses).
Rules: 00_scope.md R7, R9. All arithmetic on them wraps (R10, R69, R120), which is `BitVec` arithmetic.
-/

namespace Sys2Proof

/-- An 8-bit value: a register, a flag byte or a bus byte (R7). -/
abbrev Byte := BitVec 8

/-- A 16-bit value: SP, PC, a register pair or an immediate word (R7). -/
abbrev Word := BitVec 16

/-- An address of the one 16-bit, byte-addressed space (20_memory.md R50). -/
abbrev Addr := BitVec 16

end Sys2Proof
end

