-- ==== Sys2Proof/Machine/Bytes.lean ====
section
/-!
DEFINITION. Byte and word helpers: the high and low byte of a word, concatenation and sign extension (00_scope.md R9, R10).
-/

namespace Sys2Proof.Machine

/-- The low byte `w[7:0]` (R9). -/
def loByte (w : Word) : Byte := w.extractLsb' 0 8

/-- The high byte `w[15:8]` (R9). -/
def hiByte (w : Word) : Byte := w.extractLsb' 8 8

/-- `hi : lo`, the word `(hi << 8) | lo` (R10). -/
def concat (hi lo : Byte) : Word := (hi.setWidth 16 <<< 8) ||| lo.setWidth 16

/-- `sext_16(b)`: the byte read as two's complement, modulo 2^16 (R10). -/
def sext16 (b : Byte) : Word := b.signExtend 16

end Sys2Proof.Machine
end

