-- ==== Sys2Proof/Config.lean ====
section
/-!
DEFINITION. The fixed parameters of the block (00_scope.md R7). The spec leaves no value free inside a step
(93_implementation_defined.md, R198), so there is no free value here. Its two open parameters, `rom_image` (D25) and
`end_of_run` (D24), are arguments of `Machine.boot` and `Machine.runUntil`.
-/

namespace Sys2Proof.Config

/-- ROM size, the capacity `load_rom` checks and `RomTooLarge` reports (R7, R71): 32 KiB. -/
def romCapacity : Nat := 32768

/-- The open-bus value an unmapped address reads as (R7, R55). -/
def openBus : Byte := 0xFF

/-- What a storage cell that nothing has written holds: "all regions zero-filled" (70_reset_and_hazards.md R210). -/
def zeroFill : Byte := 0x00

end Sys2Proof.Config
end

