-- ==== Sys2Proof/Syntax.lean ====
section
/-!
DEFINITION. The syntax of the instruction subset: one constructor per mnemonic of spec/opcode_table.json, spelled as
the table spells it with the operation in small letters. The table's 162 UNIMPLEMENTED rows share one mnemonic and are
one constructor that carries the opcode byte (log 4).
-/

namespace Sys2Proof

/-- The seven general registers, which an instruction's 3-bit field can name (10_state.md R21, 30_encoding.md R87).
F is not one of them. -/
inductive Reg where
  | b | c | d | e | h | l | a
  deriving DecidableEq, Repr

/-- The four pair views (10_state.md R25). -/
inductive Pair where
  | bc | de | hl | af
  deriving DecidableEq, Repr

/-- The four flag bits of F (10_state.md R23). -/
inductive Flag where
  | z | n | h | c
  deriving DecidableEq, Repr

/-- One instruction: an opcode with its operand. `n` is an immediate byte, `nn` an immediate word already assembled low
byte first, `e` the displacement byte as it stands in the stream (30_encoding.md R92). -/
inductive Instr where
  /-- NOP, opcode 0x00, R100. -/
  | nop
  /-- LD BC,nn, opcode 0x01, R103. -/
  | ld_BC_nn (nn : Word)
  /-- INC B, opcode 0x04, R121. -/
  | inc_B
  /-- DEC B, opcode 0x05, R122. -/
  | dec_B
  /-- LD B,n, opcode 0x06, R101. -/
  | ld_B_n (n : Byte)
  /-- INC C, opcode 0x0C, R121. -/
  | inc_C
  /-- DEC C, opcode 0x0D, R122. -/
  | dec_C
  /-- LD C,n, opcode 0x0E, R101. -/
  | ld_C_n (n : Byte)
  /-- LD DE,nn, opcode 0x11, R103. -/
  | ld_DE_nn (nn : Word)
  /-- INC D, opcode 0x14, R121. -/
  | inc_D
  /-- DEC D, opcode 0x15, R122. -/
  | dec_D
  /-- LD D,n, opcode 0x16, R101. -/
  | ld_D_n (n : Byte)
  /-- JR e, opcode 0x18, R141. -/
  | jr_e (e : Byte)
  /-- INC E, opcode 0x1C, R121. -/
  | inc_E
  /-- DEC E, opcode 0x1D, R122. -/
  | dec_E
  /-- LD E,n, opcode 0x1E, R101. -/
  | ld_E_n (n : Byte)
  /-- LD HL,nn, opcode 0x21, R103. -/
  | ld_HL_nn (nn : Word)
  /-- INC H, opcode 0x24, R121. -/
  | inc_H
  /-- DEC H, opcode 0x25, R122. -/
  | dec_H
  /-- LD H,n, opcode 0x26, R101. -/
  | ld_H_n (n : Byte)
  /-- INC L, opcode 0x2C, R121. -/
  | inc_L
  /-- DEC L, opcode 0x2D, R122. -/
  | dec_L
  /-- LD L,n, opcode 0x2E, R101. -/
  | ld_L_n (n : Byte)
  /-- LD SP,nn, opcode 0x31, R104. -/
  | ld_SP_nn (nn : Word)
  /-- INC A, opcode 0x3C, R121. -/
  | inc_A
  /-- DEC A, opcode 0x3D, R122. -/
  | dec_A
  /-- LD A,n, opcode 0x3E, R101. -/
  | ld_A_n (n : Byte)
  /-- LD B,B, opcode 0x40, R102. -/
  | ld_B_B
  /-- LD B,C, opcode 0x41, R102. -/
  | ld_B_C
  /-- LD B,D, opcode 0x42, R102. -/
  | ld_B_D
  /-- LD B,E, opcode 0x43, R102. -/
  | ld_B_E
  /-- LD B,H, opcode 0x44, R102. -/
  | ld_B_H
  /-- LD B,L, opcode 0x45, R102. -/
  | ld_B_L
  /-- LD B,A, opcode 0x47, R102. -/
  | ld_B_A
  /-- LD C,B, opcode 0x48, R102. -/
  | ld_C_B
  /-- LD C,C, opcode 0x49, R102. -/
  | ld_C_C
  /-- LD C,D, opcode 0x4A, R102. -/
  | ld_C_D
  /-- LD C,E, opcode 0x4B, R102. -/
  | ld_C_E
  /-- LD C,H, opcode 0x4C, R102. -/
  | ld_C_H
  /-- LD C,L, opcode 0x4D, R102. -/
  | ld_C_L
  /-- LD C,A, opcode 0x4F, R102. -/
  | ld_C_A
  /-- LD D,B, opcode 0x50, R102. -/
  | ld_D_B
  /-- LD D,C, opcode 0x51, R102. -/
  | ld_D_C
  /-- LD D,D, opcode 0x52, R102. -/
  | ld_D_D
  /-- LD D,E, opcode 0x53, R102. -/
  | ld_D_E
  /-- LD D,H, opcode 0x54, R102. -/
  | ld_D_H
  /-- LD D,L, opcode 0x55, R102. -/
  | ld_D_L
  /-- LD D,A, opcode 0x57, R102. -/
  | ld_D_A
  /-- LD E,B, opcode 0x58, R102. -/
  | ld_E_B
  /-- LD E,C, opcode 0x59, R102. -/
  | ld_E_C
  /-- LD E,D, opcode 0x5A, R102. -/
  | ld_E_D
  /-- LD E,E, opcode 0x5B, R102. -/
  | ld_E_E
  /-- LD E,H, opcode 0x5C, R102. -/
  | ld_E_H
  /-- LD E,L, opcode 0x5D, R102. -/
  | ld_E_L
  /-- LD E,A, opcode 0x5F, R102. -/
  | ld_E_A
  /-- LD H,B, opcode 0x60, R102. -/
  | ld_H_B
  /-- LD H,C, opcode 0x61, R102. -/
  | ld_H_C
  /-- LD H,D, opcode 0x62, R102. -/
  | ld_H_D
  /-- LD H,E, opcode 0x63, R102. -/
  | ld_H_E
  /-- LD H,H, opcode 0x64, R102. -/
  | ld_H_H
  /-- LD H,L, opcode 0x65, R102. -/
  | ld_H_L
  /-- LD H,A, opcode 0x67, R102. -/
  | ld_H_A
  /-- LD L,B, opcode 0x68, R102. -/
  | ld_L_B
  /-- LD L,C, opcode 0x69, R102. -/
  | ld_L_C
  /-- LD L,D, opcode 0x6A, R102. -/
  | ld_L_D
  /-- LD L,E, opcode 0x6B, R102. -/
  | ld_L_E
  /-- LD L,H, opcode 0x6C, R102. -/
  | ld_L_H
  /-- LD L,L, opcode 0x6D, R102. -/
  | ld_L_L
  /-- LD L,A, opcode 0x6F, R102. -/
  | ld_L_A
  /-- LD A,B, opcode 0x78, R102. -/
  | ld_A_B
  /-- LD A,C, opcode 0x79, R102. -/
  | ld_A_C
  /-- LD A,D, opcode 0x7A, R102. -/
  | ld_A_D
  /-- LD A,E, opcode 0x7B, R102. -/
  | ld_A_E
  /-- LD A,H, opcode 0x7C, R102. -/
  | ld_A_H
  /-- LD A,L, opcode 0x7D, R102. -/
  | ld_A_L
  /-- LD A,A, opcode 0x7F, R102. -/
  | ld_A_A
  /-- XOR B, opcode 0xA8, R123. -/
  | xor_B
  /-- XOR C, opcode 0xA9, R123. -/
  | xor_C
  /-- XOR D, opcode 0xAA, R123. -/
  | xor_D
  /-- XOR E, opcode 0xAB, R123. -/
  | xor_E
  /-- XOR H, opcode 0xAC, R123. -/
  | xor_H
  /-- XOR L, opcode 0xAD, R123. -/
  | xor_L
  /-- XOR A, opcode 0xAF, R123. -/
  | xor_A
  /-- POP BC, opcode 0xC1, R163. -/
  | pop_BC
  /-- JP nn, opcode 0xC3, R140. -/
  | jp_nn (nn : Word)
  /-- PUSH BC, opcode 0xC5, R161. -/
  | push_BC
  /-- RET, opcode 0xC9, R143. -/
  | ret
  /-- CALL nn, opcode 0xCD, R142. -/
  | call_nn (nn : Word)
  /-- POP DE, opcode 0xD1, R163. -/
  | pop_DE
  /-- PUSH DE, opcode 0xD5, R161. -/
  | push_DE
  /-- POP HL, opcode 0xE1, R163. -/
  | pop_HL
  /-- PUSH HL, opcode 0xE5, R161. -/
  | push_HL
  /-- POP AF, opcode 0xF1, R164. -/
  | pop_AF
  /-- PUSH AF, opcode 0xF5, R162. -/
  | push_AF
  /-- Any of the 162 opcode bytes outside R90, which raise `UnimplementedOpcode` (30_encoding.md R91, 60_exceptions.md R183). -/
  | unimplemented (opcode : Byte)
  deriving DecidableEq, Repr

end Sys2Proof
end

