-- ==== Sys2Proof/Machine/State.lean ====
section
/-!
DEFINITION. The state of the block between steps, exactly the tuple of 10_state.md R33, its reset value (R35), and the
ways a step or a host operation can end in an error (60_exceptions.md R180). Plain data throughout.
-/

namespace Sys2Proof.Machine

/-- The storage cells of ROM, Video RAM, Working RAM and High RAM, as (address, byte) pairs in canonical form: the key is
the cell's own bus address (echo addresses own no cell, 20_memory.md R53), keys rise strictly, and no entry holds the
byte `Config.zeroFill` that an unlisted cell holds (log 2). -/
abbrev Memory := List Host.Cell

/-- The bus component (10_state.md R33): the four byte regions and the interrupt-enable register. -/
structure Bus where
  /-- rom, vram, wram and hram, told apart by address (20_memory.md R51). -/
  mem : Memory
  /-- IE, the byte at 0xFFFF (10_state.md R29). -/
  ie  : Byte
  deriving DecidableEq, Repr

/-- The whole state (10_state.md R33). -/
structure State where
  /-- The accumulator (R21). -/
  a : Byte
  /-- The flag register; bits 3-0 are 0 in every state a write through `setF` leaves (R23, R24). -/
  f : Byte
  b : Byte
  c : Byte
  d : Byte
  e : Byte
  h : Byte
  l : Byte
  /-- The address of the byte most recently pushed (R31). -/
  sp : Word
  /-- The address of the next byte to fetch (R30). -/
  pc : Word
  bus : Bus
  deriving DecidableEq, Repr

/-- The construction state of `new_cpu()` (10_state.md R35, 70_reset_and_hazards.md R210, R211): the post-boot register
values and a zero-filled bus. -/
def State.reset : State where
  a := 0x01
  f := 0xB0
  b := 0x00
  c := 0x13
  d := 0x00
  e := 0xD8
  h := 0x01
  l := 0x4D
  sp := 0xFFFE
  pc := 0x0100
  bus := { mem := [], ie := 0x00 }

/-- The three error kinds and no other (60_exceptions.md R180). Each carries its payload and `after`, the state the failed
operation leaves, which the spec fixes and the driver can read (R182, R183, R184, R187). A step that ends so is terminal:
the model gives no further step from it (R181). -/
inductive Fault where
  /-- Raised by the decode of any step whose opcode byte is outside R90 (R183). `after` is the state before with PC one past
  the opcode. Safe: it is the spec's own end of the step. -/
  | unimplementedOpcode (opcode : Byte) (after : State)
  /-- Raised by a bus write to 0x0000-0x7FFF: in a step only by PUSH and CALL, and by a host write (R182). `after` is the
  state reached up to the failing write. Safe for claims about runs; a claim about `after` itself rests on the spec's
  decision D6 (log 6). -/
  | writeToReadOnlyRegion (address : Addr) (after : State)
  /-- Raised by `load_rom` of an image larger than the capacity, never by a step (R184). `after` is the state before. Safe. -/
  | romTooLarge (size capacity : Nat) (after : State)
  deriving DecidableEq, Repr

/-- The state a failed operation leaves (R182, R183, R184). -/
def Fault.after : Fault → State
  | .unimplementedOpcode _ t => t
  | .writeToReadOnlyRegion _ t => t
  | .romTooLarge _ _ t => t

/-- Reasons the model itself declines an instruction. No arm of `exec` uses it: every instruction has its meaning. -/
inductive Refusal where
  /-- Raised only by an arm of `exec` whose instruction has no meaning yet; there is none. Safe. -/
  | notModelled (mnemonic : String)
  deriving DecidableEq, Repr

/-- How a step or a host operation ends. -/
abbrev Result := Host.Outcome State Fault Refusal

end Sys2Proof.Machine
end

