-- ==== Sys2Proof/Machine/Operands.lean ====
section
/-!
DEFINITION. The register file: the one place that reads and writes registers and pair views (10_state.md R20-R26, R34;
00_scope.md R10). No instruction of the subset has a memory operand form (30_encoding.md R87, R91): an operand is a
register, a pair, or an immediate that the fetch has already put into the instruction (R92).
-/

namespace Sys2Proof.Machine

/-- `x[r]` (R10). -/
def State.reg (s : State) : Reg → Byte
  | .b => s.b | .c => s.c | .d => s.d | .e => s.e | .h => s.h | .l => s.l | .a => s.a

/-- `x[r] <- v` (R10). -/
def State.setReg (s : State) (r : Reg) (v : Byte) : State :=
  match r with
  | .b => { s with b := v }
  | .c => { s with c := v }
  | .d => { s with d := v }
  | .e => { s with e := v }
  | .h => { s with h := v }
  | .l => { s with l := v }
  | .a => { s with a := v }

/-- Every write to F stores the value ANDed with 0xF0 (10_state.md R24). -/
def State.setF (s : State) (v : Byte) : State := { s with f := v &&& 0xF0 }

/-- `SP <- w` (R31). -/
def State.setSp (s : State) (w : Word) : State := { s with sp := w }

/-- `PC <- w` (R30). -/
def State.setPc (s : State) (w : Word) : State := { s with pc := w }

/-- The bus after a bus operation. -/
def State.setBus (s : State) (b : Bus) : State := { s with bus := b }

/-- `pair(p)`: the first-named register is the high byte (10_state.md R25). -/
def State.pair (s : State) : Pair → Word
  | .bc => concat s.b s.c
  | .de => concat s.d s.e
  | .hl => concat s.h s.l
  | .af => concat s.a s.f

/-- `pair(p) <- w`: the high byte to the first-named register; for AF the low byte is masked (10_state.md R25). -/
def State.setPair (s : State) (p : Pair) (w : Word) : State :=
  match p with
  | .bc => (s.setReg .b (hiByte w)).setReg .c (loByte w)
  | .de => (s.setReg .d (hiByte w)).setReg .e (loByte w)
  | .hl => (s.setReg .h (hiByte w)).setReg .l (loByte w)
  | .af => (s.setReg .a (hiByte w)).setF (loByte w)

end Sys2Proof.Machine
end

