-- ==== Sys2Proof/Machine/Flags.lean ====
section
/-!
DEFINITION. The flag bits of F and the flag computations of the subset (10_state.md R23, R24, R27, R28; 41_alu8.md R121-R125).
-/

namespace Sys2Proof.Machine

/-- The bit of F a flag stands for (10_state.md R23): Z bit 7, N bit 6, H bit 5, C bit 4. -/
def flagMask : Flag → Byte
  | .z => 0x80 | .n => 0x40 | .h => 0x20 | .c => 0x10

/-- Read one flag. -/
def State.flag (s : State) (x : Flag) : Bool := s.f &&& flagMask x != 0

/-- `flag.X <- b`: set or clear one bit of F, through the masking write (10_state.md R24, R27). -/
def State.setFlag (s : State) (x : Flag) (b : Bool) : State :=
  s.setF (if b then s.f ||| flagMask x else s.f &&& ~~~ flagMask x)

/-- INC: carry out of bit 3, `v[3:0] == 0xF` (41_alu8.md R125). -/
def incHalfCarry (v : Byte) : Bool := v &&& 0x0F == 0x0F

/-- DEC: borrow from bit 4 into bit 3, `v[3:0] == 0` (41_alu8.md R125). -/
def decHalfBorrow (v : Byte) : Bool := v &&& 0x0F == 0x00

/-- XOR: F is 0x80 when the result is 0 and 0x00 otherwise (41_alu8.md R123). -/
def xorFlags (res : Byte) : Byte := if res == 0 then 0x80 else 0x00

end Sys2Proof.Machine
end

