-- ==== Sys2Proof/Machine/Ops.lean ====
section
/-!
DEFINITION. The named operations over memory, the bus and the stack (20_memory.md R50-R72; 43_stack.md R160), and the one
shared way an operation ends in an error. The block has no trap entry and no return from one (60_exceptions.md R187, R188):
an error saves nothing, jumps nowhere and is the end of the step.
-/

namespace Sys2Proof.Machine

/-- The byte a storage cell holds; an unlisted cell holds the zero fill of construction (70_reset_and_hazards.md R210). -/
def Memory.read : Memory → Nat → Byte
  | [], _ => Config.zeroFill
  | (k', v) :: rest, k => if k = k' then v else Memory.read rest k

/-- Put a byte in front of later cells, or leave it out if it is what an unlisted cell holds. -/
def Memory.put (k : Nat) (v : Byte) (rest : Memory) : Memory :=
  if v = Config.zeroFill then rest else (k, v) :: rest

/-- Store a byte in a cell, keeping the canonical form. -/
def Memory.write : Memory → Nat → Byte → Memory
  | [], k, v => Memory.put k v []
  | (k', v') :: rest, k, v =>
    if k < k' then Memory.put k v ((k', v') :: rest)
    else if k = k' then Memory.put k v rest
    else (k', v') :: Memory.write rest k v

/-- Store consecutive bytes from a cell on. -/
def Memory.load : Memory → Nat → List Byte → Memory
  | m, _, [] => m
  | m, k, v :: vs => Memory.load (m.write k v) (k + 1) vs

/-- Is the number the address of a storage cell: ROM, Video RAM, Working RAM or High RAM (20_memory.md R51)? -/
def isCell (k : Nat) : Bool := k < 0xA000 || (0xC000 ≤ k && k < 0xE000) || (0xFF80 ≤ k && k < 0xFFFF)

/-- Every key is at least `lo`, a storage cell, strictly below the next key, and its byte is not the zero fill. -/
def Memory.wfFrom : Nat → Memory → Bool
  | _, [] => true
  | lo, (k, v) :: rest => lo ≤ k && isCell k && v != Config.zeroFill && Memory.wfFrom (k + 1) rest

/-- The canonical form of memory. -/
def Memory.wf (m : Memory) : Bool := Memory.wfFrom 0 m

/-- The classes of the address map (20_memory.md R51). -/
inductive Region where
  | rom | vram | wram | echo | hram | ie | unmapped
  deriving DecidableEq, Repr

/-- The address map, in the order of R51's decode function: total and unique (R52). -/
def region (addr : Addr) : Region :=
  let a := addr.toNat
  if a ≤ 0x7FFF then .rom
  else if 0x8000 ≤ a ∧ a ≤ 0x9FFF then .vram
  else if 0xC000 ≤ a ∧ a ≤ 0xDFFF then .wram
  else if 0xE000 ≤ a ∧ a ≤ 0xFDFF then .echo
  else if 0xFF80 ≤ a ∧ a ≤ 0xFFFE then .hram
  else if a = 0xFFFF then .ie
  else .unmapped

/-- The storage cell behind an address: an echo address is translated by subtracting 0x2000 (20_memory.md R53). Meaningful
for the storage regions only. -/
def cellOf (addr : Addr) : Nat :=
  match region addr with
  | .echo => addr.toNat - 0x2000
  | _ => addr.toNat

/-- `MemRead(addr, 1)`: total, never raises, no side effect (20_memory.md R55, R58). -/
def busRead (b : Bus) (addr : Addr) : Byte :=
  match region addr with
  | .rom | .vram | .wram | .echo | .hram => b.mem.read (cellOf addr)
  | .ie => b.ie
  | .unmapped => Config.openBus

/-- The bus with a byte stored at an address, ROM included: what `MemWrite` does outside ROM, and how a byte of a program
gets into ROM. Unmapped addresses discard it (20_memory.md R56). -/
def busStore (b : Bus) (addr : Addr) (v : Byte) : Bus :=
  match region addr with
  | .rom | .vram | .wram | .echo | .hram => { b with mem := b.mem.write (cellOf addr) v }
  | .ie => { b with ie := v }
  | .unmapped => b

/-- `WriteToReadOnlyRegion(addr)` in the state reached so far (60_exceptions.md R182). -/
def raiseWriteToReadOnly (addr : Addr) (s : State) : Result := .fault (.writeToReadOnlyRegion addr s)

/-- `UnimplementedOpcode(opcode)` in the state reached so far (60_exceptions.md R183). -/
def raiseUnimplemented (op : Byte) (s : State) : Result := .fault (.unimplementedOpcode op s)

/-- `MemWrite(addr, 1, v)`: ROM rejects the write and nothing changes; every other address takes or discards it
(20_memory.md R56, R57). -/
def memWrite (addr : Addr) (v : Byte) (s : State) : Result :=
  match region addr with
  | .rom => raiseWriteToReadOnly addr s
  | _ => .next (s.setBus (busStore s.bus addr v))

/-- `MemRead(addr, 1)` in a state. -/
def memRead (s : State) (addr : Addr) : Byte := busRead s.bus addr

/-- Go on with the next effect of the pseudocode, unless an error has ended the operation (60_exceptions.md R186). -/
def andThen (r : Result) (k : State → Result) : Result :=
  match r with
  | .next s => k s
  | .fault e => .fault e
  | .refused e => .refused e

/-- The two bus writes of PUSH and CALL after the decrement of SP: low byte at SP, then high byte at SP+1
(43_stack.md R161, 42_control.md R142, decision D5). -/
def pushWord (w : Word) (s : State) : Result :=
  let t := s.setSp (s.sp - 2)
  andThen (memWrite t.sp (loByte w) t) fun u => memWrite (u.sp + 1) (hiByte w) u

/-- The read of POP and RET: low byte at SP, high byte at SP+1, then SP+2 (43_stack.md R163, 42_control.md R143). -/
def popWord (s : State) : Word × State :=
  (concat (memRead s (s.sp + 1)) (memRead s s.sp), s.setSp (s.sp + 2))

end Sys2Proof.Machine
end

