-- ==== Sys2Proof/Machine/Alu8.lean ====
section
/-!
DEFINITION. The 8-bit ALU instructions INC, DEC and XOR (41_alu8.md R120-R125). Arithmetic is modulo 256 and never
faults (R120).
-/

namespace Sys2Proof.Machine

/-- INC r (R121): Z and H from the operation, N = 0, C unchanged. -/
def incReg (r : Reg) (s : State) : Result :=
  let v := s.reg r
  let res := v + 1
  .next ((((s.setReg r res).setFlag .z (res == 0)).setFlag .n false).setFlag .h (incHalfCarry v))

/-- DEC r (R122): Z and H from the operation, N = 1, C unchanged. -/
def decReg (r : Reg) (s : State) : Result :=
  let v := s.reg r
  let res := v - 1
  .next ((((s.setReg r res).setFlag .z (res == 0)).setFlag .n true).setFlag .h (decHalfBorrow v))

/-- XOR r (R123): all four flags are written. -/
def xorReg (src : Reg) (s : State) : Result :=
  let res := s.reg .a ^^^ s.reg src
  .next ((s.setReg .a res).setF (xorFlags res))

/-- INC B (R121). -/
def execInc_B (s : State) : Result := incReg .b s

/-- DEC B (R122). -/
def execDec_B (s : State) : Result := decReg .b s

/-- INC C (R121). -/
def execInc_C (s : State) : Result := incReg .c s

/-- DEC C (R122). -/
def execDec_C (s : State) : Result := decReg .c s

/-- INC D (R121). -/
def execInc_D (s : State) : Result := incReg .d s

/-- DEC D (R122). -/
def execDec_D (s : State) : Result := decReg .d s

/-- INC E (R121). -/
def execInc_E (s : State) : Result := incReg .e s

/-- DEC E (R122). -/
def execDec_E (s : State) : Result := decReg .e s

/-- INC H (R121). -/
def execInc_H (s : State) : Result := incReg .h s

/-- DEC H (R122). -/
def execDec_H (s : State) : Result := decReg .h s

/-- INC L (R121). -/
def execInc_L (s : State) : Result := incReg .l s

/-- DEC L (R122). -/
def execDec_L (s : State) : Result := decReg .l s

/-- INC A (R121). -/
def execInc_A (s : State) : Result := incReg .a s

/-- DEC A (R122). -/
def execDec_A (s : State) : Result := decReg .a s

/-- XOR B (R123). -/
def execXor_B (s : State) : Result := xorReg .b s

/-- XOR C (R123). -/
def execXor_C (s : State) : Result := xorReg .c s

/-- XOR D (R123). -/
def execXor_D (s : State) : Result := xorReg .d s

/-- XOR E (R123). -/
def execXor_E (s : State) : Result := xorReg .e s

/-- XOR H (R123). -/
def execXor_H (s : State) : Result := xorReg .h s

/-- XOR L (R123). -/
def execXor_L (s : State) : Result := xorReg .l s

/-- XOR A (R123). -/
def execXor_A (s : State) : Result := xorReg .a s

end Sys2Proof.Machine
end

