-- ==== Sys2Proof/Machine/Control.lean ====
section
/-!
DEFINITION. The control-transfer instructions JP, JR, CALL and RET (42_control.md R140-R144). All are unconditional and
touch no flag. PC on entry is the address after the instruction, which is the base of JR and the return address of CALL.
-/

namespace Sys2Proof.Machine

/-- JR e (R141). -/
def execJr_e (e : Byte) (s : State) : Result := .next (s.setPc (s.pc + sext16 e))

/-- JP nn (R140). -/
def execJp_nn (nn : Word) (s : State) : Result := .next (s.setPc nn)

/-- RET (R143). -/
def execRet (s : State) : Result := .next ((popWord s).2.setPc (popWord s).1)

/-- CALL nn (R142). -/
def execCall_nn (nn : Word) (s : State) : Result := andThen (pushWord s.pc s) fun t => .next (t.setPc nn)

end Sys2Proof.Machine
end

