-- ==== Sys2Proof/Machine/Loads.lean ====
section
/-!
DEFINITION. No-operation and the load instructions (40_nop_and_loads.md R100-R104). A meaning runs on the state after
the instruction's bytes are fetched: PC already points past them (30_encoding.md R82, R84). None touches a flag.
-/

namespace Sys2Proof.Machine

/-- `x[r] <- n` (R101). -/
def loadReg (r : Reg) (n : Byte) (s : State) : Result := .next (s.setReg r n)

/-- `x[dst] <- x[src]` (R102). -/
def copyReg (dst src : Reg) (s : State) : Result := .next (s.setReg dst (s.reg src))

/-- `pair(p) <- nn` (R103). -/
def loadPair (p : Pair) (nn : Word) (s : State) : Result := .next (s.setPair p nn)

/-- NOP (R100). -/
def execNop (s : State) : Result := .next s

/-- LD BC,nn (R103). -/
def execLd_BC_nn (nn : Word) (s : State) : Result := loadPair .bc nn s

/-- LD B,n (R101). -/
def execLd_B_n (n : Byte) (s : State) : Result := loadReg .b n s

/-- LD C,n (R101). -/
def execLd_C_n (n : Byte) (s : State) : Result := loadReg .c n s

/-- LD DE,nn (R103). -/
def execLd_DE_nn (nn : Word) (s : State) : Result := loadPair .de nn s

/-- LD D,n (R101). -/
def execLd_D_n (n : Byte) (s : State) : Result := loadReg .d n s

/-- LD E,n (R101). -/
def execLd_E_n (n : Byte) (s : State) : Result := loadReg .e n s

/-- LD HL,nn (R103). -/
def execLd_HL_nn (nn : Word) (s : State) : Result := loadPair .hl nn s

/-- LD H,n (R101). -/
def execLd_H_n (n : Byte) (s : State) : Result := loadReg .h n s

/-- LD L,n (R101). -/
def execLd_L_n (n : Byte) (s : State) : Result := loadReg .l n s

/-- LD SP,nn (R104). -/
def execLd_SP_nn (nn : Word) (s : State) : Result := .next (s.setSp nn)

/-- LD A,n (R101). -/
def execLd_A_n (n : Byte) (s : State) : Result := loadReg .a n s

/-- LD B,B (R102). -/
def execLd_B_B (s : State) : Result := copyReg .b .b s

/-- LD B,C (R102). -/
def execLd_B_C (s : State) : Result := copyReg .b .c s

/-- LD B,D (R102). -/
def execLd_B_D (s : State) : Result := copyReg .b .d s

/-- LD B,E (R102). -/
def execLd_B_E (s : State) : Result := copyReg .b .e s

/-- LD B,H (R102). -/
def execLd_B_H (s : State) : Result := copyReg .b .h s

/-- LD B,L (R102). -/
def execLd_B_L (s : State) : Result := copyReg .b .l s

/-- LD B,A (R102). -/
def execLd_B_A (s : State) : Result := copyReg .b .a s

/-- LD C,B (R102). -/
def execLd_C_B (s : State) : Result := copyReg .c .b s

/-- LD C,C (R102). -/
def execLd_C_C (s : State) : Result := copyReg .c .c s

/-- LD C,D (R102). -/
def execLd_C_D (s : State) : Result := copyReg .c .d s

/-- LD C,E (R102). -/
def execLd_C_E (s : State) : Result := copyReg .c .e s

/-- LD C,H (R102). -/
def execLd_C_H (s : State) : Result := copyReg .c .h s

/-- LD C,L (R102). -/
def execLd_C_L (s : State) : Result := copyReg .c .l s

/-- LD C,A (R102). -/
def execLd_C_A (s : State) : Result := copyReg .c .a s

/-- LD D,B (R102). -/
def execLd_D_B (s : State) : Result := copyReg .d .b s

/-- LD D,C (R102). -/
def execLd_D_C (s : State) : Result := copyReg .d .c s

/-- LD D,D (R102). -/
def execLd_D_D (s : State) : Result := copyReg .d .d s

/-- LD D,E (R102). -/
def execLd_D_E (s : State) : Result := copyReg .d .e s

/-- LD D,H (R102). -/
def execLd_D_H (s : State) : Result := copyReg .d .h s

/-- LD D,L (R102). -/
def execLd_D_L (s : State) : Result := copyReg .d .l s

/-- LD D,A (R102). -/
def execLd_D_A (s : State) : Result := copyReg .d .a s

/-- LD E,B (R102). -/
def execLd_E_B (s : State) : Result := copyReg .e .b s

/-- LD E,C (R102). -/
def execLd_E_C (s : State) : Result := copyReg .e .c s

/-- LD E,D (R102). -/
def execLd_E_D (s : State) : Result := copyReg .e .d s

/-- LD E,E (R102). -/
def execLd_E_E (s : State) : Result := copyReg .e .e s

/-- LD E,H (R102). -/
def execLd_E_H (s : State) : Result := copyReg .e .h s

/-- LD E,L (R102). -/
def execLd_E_L (s : State) : Result := copyReg .e .l s

/-- LD E,A (R102). -/
def execLd_E_A (s : State) : Result := copyReg .e .a s

/-- LD H,B (R102). -/
def execLd_H_B (s : State) : Result := copyReg .h .b s

/-- LD H,C (R102). -/
def execLd_H_C (s : State) : Result := copyReg .h .c s

/-- LD H,D (R102). -/
def execLd_H_D (s : State) : Result := copyReg .h .d s

/-- LD H,E (R102). -/
def execLd_H_E (s : State) : Result := copyReg .h .e s

/-- LD H,H (R102). -/
def execLd_H_H (s : State) : Result := copyReg .h .h s

/-- LD H,L (R102). -/
def execLd_H_L (s : State) : Result := copyReg .h .l s

/-- LD H,A (R102). -/
def execLd_H_A (s : State) : Result := copyReg .h .a s

/-- LD L,B (R102). -/
def execLd_L_B (s : State) : Result := copyReg .l .b s

/-- LD L,C (R102). -/
def execLd_L_C (s : State) : Result := copyReg .l .c s

/-- LD L,D (R102). -/
def execLd_L_D (s : State) : Result := copyReg .l .d s

/-- LD L,E (R102). -/
def execLd_L_E (s : State) : Result := copyReg .l .e s

/-- LD L,H (R102). -/
def execLd_L_H (s : State) : Result := copyReg .l .h s

/-- LD L,L (R102). -/
def execLd_L_L (s : State) : Result := copyReg .l .l s

/-- LD L,A (R102). -/
def execLd_L_A (s : State) : Result := copyReg .l .a s

/-- LD A,B (R102). -/
def execLd_A_B (s : State) : Result := copyReg .a .b s

/-- LD A,C (R102). -/
def execLd_A_C (s : State) : Result := copyReg .a .c s

/-- LD A,D (R102). -/
def execLd_A_D (s : State) : Result := copyReg .a .d s

/-- LD A,E (R102). -/
def execLd_A_E (s : State) : Result := copyReg .a .e s

/-- LD A,H (R102). -/
def execLd_A_H (s : State) : Result := copyReg .a .h s

/-- LD A,L (R102). -/
def execLd_A_L (s : State) : Result := copyReg .a .l s

/-- LD A,A (R102). -/
def execLd_A_A (s : State) : Result := copyReg .a .a s

end Sys2Proof.Machine
end

