-- ==== Sys2Proof/Machine/Stack.lean ====
section
/-!
DEFINITION. The stack instructions PUSH and POP (43_stack.md R160-R165).
-/

namespace Sys2Proof.Machine

/-- PUSH qq: the pair is read before SP changes (R161, R162). -/
def pushPair (p : Pair) (s : State) : Result := pushWord (s.pair p) s

/-- POP qq: into AF the low byte is masked to the flag nibble by `setPair` (R163, R164). -/
def popPair (p : Pair) (s : State) : Result := .next ((popWord s).2.setPair p (popWord s).1)

/-- POP BC (R163). -/
def execPop_BC (s : State) : Result := popPair .bc s

/-- PUSH BC (R161). -/
def execPush_BC (s : State) : Result := pushPair .bc s

/-- POP DE (R163). -/
def execPop_DE (s : State) : Result := popPair .de s

/-- PUSH DE (R161). -/
def execPush_DE (s : State) : Result := pushPair .de s

/-- POP HL (R163). -/
def execPop_HL (s : State) : Result := popPair .hl s

/-- PUSH HL (R161). -/
def execPush_HL (s : State) : Result := pushPair .hl s

/-- POP AF (R164). -/
def execPop_AF (s : State) : Result := popPair .af s

/-- PUSH AF (R162). -/
def execPush_AF (s : State) : Result := pushPair .af s

end Sys2Proof.Machine
end

