-- ==== Sys2Proof/Machine/Unimplemented.lean ====
section
/-!
DEFINITION. The unimplemented-opcode path of the dispatch table (30_encoding.md R83, R91; 60_exceptions.md R183).
-/

namespace Sys2Proof.Machine

/-- Any opcode byte outside R90: the step ends with `UnimplementedOpcode(opcode)`; the fetch has moved PC past the opcode and
nothing else changes (R183). -/
def execUnimplemented (op : Byte) (s : State) : Result := raiseUnimplemented op s

end Sys2Proof.Machine
end

