-- ==== Sys2Proof/WellFormed.lean ====
section
/-!
DEFINITION. Well-formed instructions. Every constructor with an immediate is well formed at every value of it (the field
is the whole byte or word, R92). The one check: `unimplemented` stands only for a byte outside the admitted set of
30_encoding.md R90. The set is written here as R90's list of bytes, apart from the decoder's table and the encoder's
bit layouts.
-/

namespace Sys2Proof

/-- The opcode bytes of No-operation, jumps, call and return (30_encoding.md R90). -/
def controlOpcodes : List Byte :=
  [0x00, 0x18, 0xC3, 0xC9, 0xCD]

/-- The opcode bytes of LD r,n and LD rr,nn (30_encoding.md R90). -/
def loadImmediateOpcodes : List Byte :=
  [0x01, 0x06, 0x0E, 0x11, 0x16, 0x1E, 0x21, 0x26, 0x2E, 0x31, 0x3E]

/-- The opcode bytes of LD r,r' (30_encoding.md R90). -/
def loadRegisterOpcodes : List Byte :=
  [0x40, 0x41, 0x42, 0x43, 0x44, 0x45, 0x47, 0x48, 0x49, 0x4A, 0x4B, 0x4C, 0x4D, 0x4F,
   0x50, 0x51, 0x52, 0x53, 0x54, 0x55, 0x57, 0x58, 0x59, 0x5A, 0x5B, 0x5C, 0x5D, 0x5F,
   0x60, 0x61, 0x62, 0x63, 0x64, 0x65, 0x67, 0x68, 0x69, 0x6A, 0x6B, 0x6C, 0x6D, 0x6F,
   0x78, 0x79, 0x7A, 0x7B, 0x7C, 0x7D, 0x7F]

/-- The opcode bytes of INC r and DEC r (30_encoding.md R90). -/
def incDecOpcodes : List Byte :=
  [0x04, 0x05, 0x0C, 0x0D, 0x14, 0x15, 0x1C, 0x1D, 0x24, 0x25, 0x2C, 0x2D, 0x3C, 0x3D]

/-- The opcode bytes of XOR r (30_encoding.md R90). -/
def xorOpcodes : List Byte :=
  [0xA8, 0xA9, 0xAA, 0xAB, 0xAC, 0xAD, 0xAF]

/-- The opcode bytes of PUSH qq and POP qq (30_encoding.md R90). -/
def stackOpcodes : List Byte :=
  [0xC1, 0xC5, 0xD1, 0xD5, 0xE1, 0xE5, 0xF1, 0xF5]

/-- The set IMPLEMENTED of 30_encoding.md R90: exactly 94 opcode bytes. -/
def implementedOpcodes : List Byte :=
  controlOpcodes ++ loadImmediateOpcodes ++ loadRegisterOpcodes ++ incDecOpcodes ++ xorOpcodes ++ stackOpcodes

/-- Is the byte an admitted opcode (30_encoding.md R90)? Every other byte is unimplemented (R91). -/
def implementedOpcode (op : Byte) : Bool := implementedOpcodes.contains op

/-- Is the instruction one the spec's encodings can produce? -/
def Instr.wf : Instr → Bool
  | .nop | .ld_BC_nn _ | .inc_B | .dec_B | .ld_B_n _ | .inc_C | .dec_C
  | .ld_C_n _ | .ld_DE_nn _ | .inc_D | .dec_D | .ld_D_n _ | .jr_e _ | .inc_E
  | .dec_E | .ld_E_n _ | .ld_HL_nn _ | .inc_H | .dec_H | .ld_H_n _ | .inc_L
  | .dec_L | .ld_L_n _ | .ld_SP_nn _ | .inc_A | .dec_A | .ld_A_n _ | .ld_B_B
  | .ld_B_C | .ld_B_D | .ld_B_E | .ld_B_H | .ld_B_L | .ld_B_A | .ld_C_B
  | .ld_C_C | .ld_C_D | .ld_C_E | .ld_C_H | .ld_C_L | .ld_C_A | .ld_D_B
  | .ld_D_C | .ld_D_D | .ld_D_E | .ld_D_H | .ld_D_L | .ld_D_A | .ld_E_B
  | .ld_E_C | .ld_E_D | .ld_E_E | .ld_E_H | .ld_E_L | .ld_E_A | .ld_H_B
  | .ld_H_C | .ld_H_D | .ld_H_E | .ld_H_H | .ld_H_L | .ld_H_A | .ld_L_B
  | .ld_L_C | .ld_L_D | .ld_L_E | .ld_L_H | .ld_L_L | .ld_L_A | .ld_A_B
  | .ld_A_C | .ld_A_D | .ld_A_E | .ld_A_H | .ld_A_L | .ld_A_A | .xor_B
  | .xor_C | .xor_D | .xor_E | .xor_H | .xor_L | .xor_A | .pop_BC
  | .jp_nn _ | .push_BC | .ret | .call_nn _ | .pop_DE | .push_DE | .pop_HL
  | .push_HL | .pop_AF | .push_AF => true
  | .unimplemented op => !implementedOpcode op

end Sys2Proof
end

