-- ==== Sys2Proof/Decode.lean ====
section
/-!
DEFINITION. The decoder, total on any bytes, and the encoder. The decoder is the 256-entry table of 30_encoding.md R90
and R96 ("a dispatch table keyed by the full 8-bit opcode space", R83). The encoder is written from the bit layouts and
field codes of R87, R88 and R89. A byte outside R90 decodes to `unimplemented` of that byte (R91).
-/

namespace Sys2Proof

open Machine (loByte hiByte concat)

/-- An entry of the dispatch table: the instruction itself, or how one operand byte or one operand word completes it.
The opcode byte alone fixes which (30_encoding.md R86). -/
inductive OpcodeEntry where
  | bare (i : Instr)
  | imm8 (k : Byte → Instr)
  | imm16 (k : Word → Instr)

/-- The dispatch table (30_encoding.md R83, R90, R96): a function of the opcode byte alone. -/
def opcodeEntry (op : Byte) : OpcodeEntry :=
  match op.toNat with
  | 0x00 => .bare .nop
  | 0x01 => .imm16 .ld_BC_nn
  | 0x04 => .bare .inc_B
  | 0x05 => .bare .dec_B
  | 0x06 => .imm8 .ld_B_n
  | 0x0C => .bare .inc_C
  | 0x0D => .bare .dec_C
  | 0x0E => .imm8 .ld_C_n
  | 0x11 => .imm16 .ld_DE_nn
  | 0x14 => .bare .inc_D
  | 0x15 => .bare .dec_D
  | 0x16 => .imm8 .ld_D_n
  | 0x18 => .imm8 .jr_e
  | 0x1C => .bare .inc_E
  | 0x1D => .bare .dec_E
  | 0x1E => .imm8 .ld_E_n
  | 0x21 => .imm16 .ld_HL_nn
  | 0x24 => .bare .inc_H
  | 0x25 => .bare .dec_H
  | 0x26 => .imm8 .ld_H_n
  | 0x2C => .bare .inc_L
  | 0x2D => .bare .dec_L
  | 0x2E => .imm8 .ld_L_n
  | 0x31 => .imm16 .ld_SP_nn
  | 0x3C => .bare .inc_A
  | 0x3D => .bare .dec_A
  | 0x3E => .imm8 .ld_A_n
  | 0x40 => .bare .ld_B_B
  | 0x41 => .bare .ld_B_C
  | 0x42 => .bare .ld_B_D
  | 0x43 => .bare .ld_B_E
  | 0x44 => .bare .ld_B_H
  | 0x45 => .bare .ld_B_L
  | 0x47 => .bare .ld_B_A
  | 0x48 => .bare .ld_C_B
  | 0x49 => .bare .ld_C_C
  | 0x4A => .bare .ld_C_D
  | 0x4B => .bare .ld_C_E
  | 0x4C => .bare .ld_C_H
  | 0x4D => .bare .ld_C_L
  | 0x4F => .bare .ld_C_A
  | 0x50 => .bare .ld_D_B
  | 0x51 => .bare .ld_D_C
  | 0x52 => .bare .ld_D_D
  | 0x53 => .bare .ld_D_E
  | 0x54 => .bare .ld_D_H
  | 0x55 => .bare .ld_D_L
  | 0x57 => .bare .ld_D_A
  | 0x58 => .bare .ld_E_B
  | 0x59 => .bare .ld_E_C
  | 0x5A => .bare .ld_E_D
  | 0x5B => .bare .ld_E_E
  | 0x5C => .bare .ld_E_H
  | 0x5D => .bare .ld_E_L
  | 0x5F => .bare .ld_E_A
  | 0x60 => .bare .ld_H_B
  | 0x61 => .bare .ld_H_C
  | 0x62 => .bare .ld_H_D
  | 0x63 => .bare .ld_H_E
  | 0x64 => .bare .ld_H_H
  | 0x65 => .bare .ld_H_L
  | 0x67 => .bare .ld_H_A
  | 0x68 => .bare .ld_L_B
  | 0x69 => .bare .ld_L_C
  | 0x6A => .bare .ld_L_D
  | 0x6B => .bare .ld_L_E
  | 0x6C => .bare .ld_L_H
  | 0x6D => .bare .ld_L_L
  | 0x6F => .bare .ld_L_A
  | 0x78 => .bare .ld_A_B
  | 0x79 => .bare .ld_A_C
  | 0x7A => .bare .ld_A_D
  | 0x7B => .bare .ld_A_E
  | 0x7C => .bare .ld_A_H
  | 0x7D => .bare .ld_A_L
  | 0x7F => .bare .ld_A_A
  | 0xA8 => .bare .xor_B
  | 0xA9 => .bare .xor_C
  | 0xAA => .bare .xor_D
  | 0xAB => .bare .xor_E
  | 0xAC => .bare .xor_H
  | 0xAD => .bare .xor_L
  | 0xAF => .bare .xor_A
  | 0xC1 => .bare .pop_BC
  | 0xC3 => .imm16 .jp_nn
  | 0xC5 => .bare .push_BC
  | 0xC9 => .bare .ret
  | 0xCD => .imm16 .call_nn
  | 0xD1 => .bare .pop_DE
  | 0xD5 => .bare .push_DE
  | 0xE1 => .bare .pop_HL
  | 0xE5 => .bare .push_HL
  | 0xF1 => .bare .pop_AF
  | 0xF5 => .bare .push_AF
  | _ => .bare (.unimplemented op)

/-- Why a byte string holds no whole instruction. Neither happens in a step, where the bus answers every fetch (R82). -/
inductive DecodeError where
  /-- There is no opcode byte. -/
  | noOpcode
  /-- The string ends inside the operand of this opcode. -/
  | missingOperand (opcode : Byte)
  deriving DecidableEq, Repr

/-- Read one instruction off the front of a byte stream, and the bytes after it (30_encoding.md R83, R85, R86, R92). -/
def decode : List Byte → Except DecodeError (Instr × List Byte)
  | [] => .error .noOpcode
  | op :: rest =>
    match opcodeEntry op, rest with
    | .bare i, rest => .ok (i, rest)
    | .imm8 k, n :: rest => .ok (k n, rest)
    | .imm16 k, lo :: hi :: rest => .ok (k (concat hi lo), rest)
    | .imm8 _, [] => .error (.missingOperand op)
    | .imm16 _, [] => .error (.missingOperand op)
    | .imm16 _, [_] => .error (.missingOperand op)

/-- The 3-bit register field codes (30_encoding.md R87). Code 110 names no register of the subset. -/
def Reg.code : Reg → BitVec 3
  | .b => 0b000 | .c => 0b001 | .d => 0b010 | .e => 0b011 | .h => 0b100 | .l => 0b101 | .a => 0b111

/-- The 2-bit pair field `qq` of PUSH and POP; `rr` of LD rr,nn has the same codes for BC, DE, HL (30_encoding.md R88). -/
def Pair.code : Pair → BitVec 2
  | .bc => 0b00 | .de => 0b01 | .hl => 0b10 | .af => 0b11

/-- Format F2-r-n, `00 rrr 110` (30_encoding.md R89). -/
def opcodeLdRN (r : Reg) : Byte := 0b00#2 ++ r.code ++ 0b110#3

/-- Format F1-dd-ss, `01 ddd sss` (30_encoding.md R89). -/
def opcodeLdRR (dst src : Reg) : Byte := 0b01#2 ++ dst.code ++ src.code

/-- Format F3-rr-nn, `00 rr 0001`; the code 11 is SP (30_encoding.md R88, R89). -/
def opcodeLdPairNN (rr : BitVec 2) : Byte := 0b00#2 ++ rr ++ 0b0001#4

/-- Format F1-r of INC, `00 rrr 100` (30_encoding.md R89). -/
def opcodeInc (r : Reg) : Byte := 0b00#2 ++ r.code ++ 0b100#3

/-- Format F1-r of DEC, `00 rrr 101` (30_encoding.md R89). -/
def opcodeDec (r : Reg) : Byte := 0b00#2 ++ r.code ++ 0b101#3

/-- Format F1-s, `10101 sss` (30_encoding.md R89). -/
def opcodeXor (src : Reg) : Byte := 0b10101#5 ++ src.code

/-- Format F1-qq of PUSH, `11 qq 0101` (30_encoding.md R89). -/
def opcodePush (p : Pair) : Byte := 0b11#2 ++ p.code ++ 0b0101#4

/-- Format F1-qq of POP, `11 qq 0001` (30_encoding.md R89). -/
def opcodePop (p : Pair) : Byte := 0b11#2 ++ p.code ++ 0b0001#4

/-- An opcode byte followed by an immediate word, low byte first (30_encoding.md R85). -/
def withWord (op : Byte) (nn : Word) : List Byte := [op, loByte nn, hiByte nn]

/-- The bytes of an instruction in stream order (30_encoding.md R87, R88, R89). -/
def encode : Instr → List Byte
  | .nop => [0b00000000]
  | .ld_BC_nn nn => withWord (opcodeLdPairNN (Pair.code .bc)) nn
  | .inc_B => [opcodeInc .b]
  | .dec_B => [opcodeDec .b]
  | .ld_B_n n => [opcodeLdRN .b, n]
  | .inc_C => [opcodeInc .c]
  | .dec_C => [opcodeDec .c]
  | .ld_C_n n => [opcodeLdRN .c, n]
  | .ld_DE_nn nn => withWord (opcodeLdPairNN (Pair.code .de)) nn
  | .inc_D => [opcodeInc .d]
  | .dec_D => [opcodeDec .d]
  | .ld_D_n n => [opcodeLdRN .d, n]
  | .jr_e e => [0b00011000, e]
  | .inc_E => [opcodeInc .e]
  | .dec_E => [opcodeDec .e]
  | .ld_E_n n => [opcodeLdRN .e, n]
  | .ld_HL_nn nn => withWord (opcodeLdPairNN (Pair.code .hl)) nn
  | .inc_H => [opcodeInc .h]
  | .dec_H => [opcodeDec .h]
  | .ld_H_n n => [opcodeLdRN .h, n]
  | .inc_L => [opcodeInc .l]
  | .dec_L => [opcodeDec .l]
  | .ld_L_n n => [opcodeLdRN .l, n]
  | .ld_SP_nn nn => withWord (opcodeLdPairNN 0b11) nn
  | .inc_A => [opcodeInc .a]
  | .dec_A => [opcodeDec .a]
  | .ld_A_n n => [opcodeLdRN .a, n]
  | .ld_B_B => [opcodeLdRR .b .b]
  | .ld_B_C => [opcodeLdRR .b .c]
  | .ld_B_D => [opcodeLdRR .b .d]
  | .ld_B_E => [opcodeLdRR .b .e]
  | .ld_B_H => [opcodeLdRR .b .h]
  | .ld_B_L => [opcodeLdRR .b .l]
  | .ld_B_A => [opcodeLdRR .b .a]
  | .ld_C_B => [opcodeLdRR .c .b]
  | .ld_C_C => [opcodeLdRR .c .c]
  | .ld_C_D => [opcodeLdRR .c .d]
  | .ld_C_E => [opcodeLdRR .c .e]
  | .ld_C_H => [opcodeLdRR .c .h]
  | .ld_C_L => [opcodeLdRR .c .l]
  | .ld_C_A => [opcodeLdRR .c .a]
  | .ld_D_B => [opcodeLdRR .d .b]
  | .ld_D_C => [opcodeLdRR .d .c]
  | .ld_D_D => [opcodeLdRR .d .d]
  | .ld_D_E => [opcodeLdRR .d .e]
  | .ld_D_H => [opcodeLdRR .d .h]
  | .ld_D_L => [opcodeLdRR .d .l]
  | .ld_D_A => [opcodeLdRR .d .a]
  | .ld_E_B => [opcodeLdRR .e .b]
  | .ld_E_C => [opcodeLdRR .e .c]
  | .ld_E_D => [opcodeLdRR .e .d]
  | .ld_E_E => [opcodeLdRR .e .e]
  | .ld_E_H => [opcodeLdRR .e .h]
  | .ld_E_L => [opcodeLdRR .e .l]
  | .ld_E_A => [opcodeLdRR .e .a]
  | .ld_H_B => [opcodeLdRR .h .b]
  | .ld_H_C => [opcodeLdRR .h .c]
  | .ld_H_D => [opcodeLdRR .h .d]
  | .ld_H_E => [opcodeLdRR .h .e]
  | .ld_H_H => [opcodeLdRR .h .h]
  | .ld_H_L => [opcodeLdRR .h .l]
  | .ld_H_A => [opcodeLdRR .h .a]
  | .ld_L_B => [opcodeLdRR .l .b]
  | .ld_L_C => [opcodeLdRR .l .c]
  | .ld_L_D => [opcodeLdRR .l .d]
  | .ld_L_E => [opcodeLdRR .l .e]
  | .ld_L_H => [opcodeLdRR .l .h]
  | .ld_L_L => [opcodeLdRR .l .l]
  | .ld_L_A => [opcodeLdRR .l .a]
  | .ld_A_B => [opcodeLdRR .a .b]
  | .ld_A_C => [opcodeLdRR .a .c]
  | .ld_A_D => [opcodeLdRR .a .d]
  | .ld_A_E => [opcodeLdRR .a .e]
  | .ld_A_H => [opcodeLdRR .a .h]
  | .ld_A_L => [opcodeLdRR .a .l]
  | .ld_A_A => [opcodeLdRR .a .a]
  | .xor_B => [opcodeXor .b]
  | .xor_C => [opcodeXor .c]
  | .xor_D => [opcodeXor .d]
  | .xor_E => [opcodeXor .e]
  | .xor_H => [opcodeXor .h]
  | .xor_L => [opcodeXor .l]
  | .xor_A => [opcodeXor .a]
  | .pop_BC => [opcodePop .bc]
  | .jp_nn nn => withWord 0b11000011 nn
  | .push_BC => [opcodePush .bc]
  | .ret => [0b11001001]
  | .call_nn nn => withWord 0b11001101 nn
  | .pop_DE => [opcodePop .de]
  | .push_DE => [opcodePush .de]
  | .pop_HL => [opcodePop .hl]
  | .push_HL => [opcodePush .hl]
  | .pop_AF => [opcodePop .af]
  | .push_AF => [opcodePush .af]
  | .unimplemented op => [op]

/-- How many bytes a step fetches for the instruction: 1, 2 or 3 (30_encoding.md R86). -/
def Instr.length (i : Instr) : Nat := (encode i).length

/-- The three bytes of a stream word numbered as spec/opcode_table.json numbers it: the first byte in bits 7-0, the
second in bits 15-8, the third in bits 23-16; every bit from `nbits` up is 0. -/
def tableBytes (nbits w : Nat) : List Byte :=
  let v := w % 2 ^ nbits
  [BitVec.ofNat 8 v, BitVec.ofNat 8 (v / 256), BitVec.ofNat 8 (v / 65536)]

/-- The instruction the decoder reads from those bytes. -/
def decodeTableWord (nbits w : Nat) : Option Instr :=
  match decode (tableBytes nbits w) with
  | .ok (i, _) => some i
  | .error _ => none

end Sys2Proof
end

