-- ==== Sys2Proof/Machine/Fetch.lean ====
section
/-!
DEFINITION. The fetch of an instruction's bytes (30_encoding.md R82, R84, R85), and the placing of one instruction where
the next step fetches it.
-/

namespace Sys2Proof.Machine

/-- `fetch8()`: the byte at PC, and PC one further modulo 65536 (R82). -/
def fetch8 (s : State) : Byte × State := (memRead s s.pc, s.setPc (s.pc + 1))

/-- `fetch16()`: low byte first (R85). -/
def fetch16 (s : State) : Word × State :=
  let (lo, t) := fetch8 s
  let (hi, u) := fetch8 t
  (concat hi lo, u)

/-- Fetch the opcode, and the operand bytes its table entry asks for; PC ends past the last byte fetched (R80, R84). An
unimplemented opcode fetches no operand (R91). -/
def fetchInstr (s : State) : Instr × State :=
  let (op, t) := fetch8 s
  match opcodeEntry op with
  | .bare i => (i, t)
  | .imm8 k => let (n, u) := fetch8 t; (k n, u)
  | .imm16 k => let (nn, u) := fetch16 t; (k nn, u)

/-- Can all three bytes an instruction may have be stored from this address on? -/
def holdsInstr (addr : Addr) : Bool :=
  region addr != .unmapped && region (addr + 1) != .unmapped && region (addr + 2) != .unmapped

/-- Store the bytes at consecutive addresses. -/
def placeBytes : Bus → Addr → List Byte → Bus
  | b, _, [] => b
  | b, addr, v :: vs => placeBytes (busStore b addr v) (addr + 1) vs

/-- Place an instruction's bytes at PC, in ROM too, as `load_rom` does. Where PC is in or just below unmapped space, which
stores nothing, PC is first set to the entry point 0x0100 (log 8). -/
def placeInstr (s : State) (bytes : List Byte) : State :=
  let pc := if holdsInstr s.pc then s.pc else 0x0100
  (s.setPc pc).setBus (placeBytes s.bus pc bytes)

end Sys2Proof.Machine
end

