-- ==== Sys2Proof/Machine/Step.lean ====
section
/-!
DEFINITION. One step: fetch one instruction and execute it (30_encoding.md R80).
-/

namespace Sys2Proof.Machine

/-- `cpu.step()` less its cycle count, which `cpuStep` adds (R80, R81). -/
def step (s : State) : Host.Outcome State Fault Refusal := exec (fetchInstr s).1 (fetchInstr s).2

/-- The state with the instruction of a table word stored where the next step fetches. -/
def State.withFetchWord (s : State) (nbits w : Nat) : State := placeInstr s (tableBytes nbits w)

end Sys2Proof.Machine
end

