-- ==== Sys2Proof/Machine/Cycles.lean ====
section
/-!
DEFINITION. The fixed cycle cost of each instruction in T-cycles (70_reset_and_hazards.md R226). No effect of an
instruction depends on it.
-/

namespace Sys2Proof.Machine

/-- The cost table (R226). An unimplemented opcode's step reports 0 (R183). -/
def cycles : Instr → Nat
  | .nop => 4
  | .ld_B_n _ | .ld_C_n _ | .ld_D_n _ | .ld_E_n _ | .ld_H_n _ | .ld_L_n _ | .ld_A_n _ => 8
  | .ld_B_B | .ld_B_C | .ld_B_D | .ld_B_E | .ld_B_H | .ld_B_L | .ld_B_A
  | .ld_C_B | .ld_C_C | .ld_C_D | .ld_C_E | .ld_C_H | .ld_C_L | .ld_C_A
  | .ld_D_B | .ld_D_C | .ld_D_D | .ld_D_E | .ld_D_H | .ld_D_L | .ld_D_A
  | .ld_E_B | .ld_E_C | .ld_E_D | .ld_E_E | .ld_E_H | .ld_E_L | .ld_E_A
  | .ld_H_B | .ld_H_C | .ld_H_D | .ld_H_E | .ld_H_H | .ld_H_L | .ld_H_A
  | .ld_L_B | .ld_L_C | .ld_L_D | .ld_L_E | .ld_L_H | .ld_L_L | .ld_L_A
  | .ld_A_B | .ld_A_C | .ld_A_D | .ld_A_E | .ld_A_H | .ld_A_L | .ld_A_A => 4
  | .ld_BC_nn _ | .ld_DE_nn _ | .ld_HL_nn _ | .ld_SP_nn _ => 12
  | .inc_B | .inc_C | .inc_D | .inc_E | .inc_H | .inc_L | .inc_A => 4
  | .dec_B | .dec_C | .dec_D | .dec_E | .dec_H | .dec_L | .dec_A => 4
  | .xor_B | .xor_C | .xor_D | .xor_E | .xor_H | .xor_L | .xor_A => 4
  | .jp_nn _ => 16
  | .jr_e _ => 12
  | .call_nn _ => 24
  | .ret => 16
  | .push_BC | .push_DE | .push_HL | .push_AF => 16
  | .pop_BC | .pop_DE | .pop_HL | .pop_AF => 12
  | .unimplemented _ => 0

end Sys2Proof.Machine
end

