-- ==== Sys2Proof/Machine/HostInterface.lean ====
section
/-!
DEFINITION. The host interface (70_reset_and_hazards.md R210-R217; 10_state.md R34; 20_memory.md R70, R71): what the driver
can do to the block between steps, the cycle count a step reports, and a run with its two open parameters.
-/

namespace Sys2Proof.Machine

/-- `new_cpu()` (R210). -/
def newCpu : State := State.reset

/-- `load_rom(bytes)`: more bytes than the capacity change nothing; otherwise they land from address 0 on and later bytes
keep their value (20_memory.md R71). -/
def loadRom (bytes : List Byte) (s : State) : Result :=
  if bytes.length > Config.romCapacity then .fault (.romTooLarge bytes.length Config.romCapacity s)
  else .next (s.setBus { s.bus with mem := s.bus.mem.load 0 bytes })

/-- Everything a host may do between two steps that can change the state (R215, R216). Getters change nothing: they are
the fields, `State.reg`, `State.pair`, `State.flag` and `memRead` (10_state.md R34). -/
inductive HostAction where
  | setReg (r : Reg) (v : Byte)
  | setF (v : Byte)
  | setPair (p : Pair) (w : Word)
  | setSp (w : Word)
  | setPc (w : Word)
  | setFlag (x : Flag) (b : Bool)
  | write (addr : Addr) (v : Byte)
  | loadRom (bytes : List Byte)
  deriving DecidableEq, Repr

/-- The effect of a host action (10_state.md R34, 20_memory.md R56, R71). -/
def hostAct (act : HostAction) (s : State) : Result :=
  match act with
  | .setReg r v => .next (s.setReg r v)
  | .setF v => .next (s.setF v)
  | .setPair p w => .next (s.setPair p w)
  | .setSp w => .next (s.setSp w)
  | .setPc w => .next (s.setPc w)
  | .setFlag x b => .next (s.setFlag x b)
  | .write addr v => memWrite addr v s
  | .loadRom bytes => Machine.loadRom bytes s

/-- `cpu.step() -> (cycles, error?)`: the instruction's fixed cost with success, 0 with an error (30_encoding.md R81,
decision D7). -/
def cpuStep (s : State) : Nat × Result :=
  match step s with
  | .next t => (cycles (fetchInstr s).1, .next t)
  | r => (0, r)

/-- What can happen to the block: a step, or a host action between steps (R215). -/
inductive Event where
  | step
  | host (act : HostAction)
  deriving DecidableEq, Repr

/-- A history of steps and host actions. A step's error is the end of it (60_exceptions.md R181). An error of a host action
is returned to the host, which may go on: the action has changed nothing (R182, R184). -/
def runEvents : List Event → State → Result
  | [], s => .next s
  | .step :: rest, s => andThen (step s) (runEvents rest)
  | .host act :: rest, s =>
    match hostAct act s with
    | .next t => runEvents rest t
    | .fault e => runEvents rest e.after
    | .refused e => .refused e

/-- The boot sequence: construct, then load the parameter `rom_image` (R213, decision D25). -/
def boot (romImage : List Byte) : Result := loadRom romImage newCpu

/-- Step until the parameter `end_of_run` holds (R217, decision D24), at most `bound` steps. An error ends the run and is no
successful end; `none` says the bound was reached first. -/
def runUntil (endOfRun : State → Bool) : Nat → State → Option Result
  | bound, s =>
    if endOfRun s then some (.next s)
    else
      match bound with
      | 0 => none
      | bound + 1 =>
        match step s with
        | .next t => runUntil endOfRun bound t
        | r => some r

end Sys2Proof.Machine
end

