-- ==== Sys2Proof/Safety.lean ====
section
/-!
DEFINITION. What the claims mean by a good state and a safe run.
-/

namespace Sys2Proof.Machine

/-- Bits 3-0 of F are 0 (10_state.md R22, R24). -/
abbrev FlagNibbleZero (s : State) : Prop := s.f &&& 0x0F = 0

/-- The invariant of the machine: the hard-wired nibble of F reads 0 and memory is in canonical form. -/
abbrev MachineInv (s : State) : Prop := FlagNibbleZero s ∧ s.bus.mem.wf = true

/-- The step succeeds. -/
def StepCompletes (s : State) : Prop := ∃ t, step s = .next t

/-- A run of `k` steps with no error (60_exceptions.md R181). -/
def SafeFor : Nat → State → Prop
  | 0, _ => True
  | k + 1, s => ∃ t, step s = .next t ∧ SafeFor k t

/-- A push from this SP writes no ROM byte: neither SP-2 nor SP-1 lies in 0x0000-0x7FFF (60_exceptions.md R182). -/
abbrev PushAllowed (sp : Word) : Prop := 0x8000 ≤ (sp - 2).toNat ∧ 0x8000 ≤ (sp - 1).toNat

/-- Two addresses reach the same byte: they are equal, or one is the other's echo (20_memory.md R53). -/
abbrev SameByte (x y : Addr) : Prop :=
  x = y ∨ (0xE000 ≤ x.toNat ∧ x.toNat ≤ 0xFDFF ∧ y.toNat + 0x2000 = x.toNat)
    ∨ (0xE000 ≤ y.toNat ∧ y.toNat ≤ 0xFDFF ∧ x.toNat + 0x2000 = y.toNat)

/-- Addresses that own or mirror no storage: reads give 0xFF and writes are discarded (20_memory.md R51, R72). -/
abbrev Unmapped (x : Addr) : Prop :=
  (0xA000 ≤ x.toNat ∧ x.toNat ≤ 0xBFFF) ∨ (0xFE00 ≤ x.toNat ∧ x.toNat ≤ 0xFF7F)

/-- The instructions that write memory (60_exceptions.md R182). -/
def WritesMemory (i : Instr) : Prop :=
  i = .push_BC ∨ i = .push_DE ∨ i = .push_HL ∨ i = .push_AF ∨ ∃ nn, i = .call_nn nn

/-- The instructions that read the stack (43_stack.md R163, R164; 42_control.md R143). -/
def ReadsStack (i : Instr) : Prop :=
  i = .pop_BC ∨ i = .pop_DE ∨ i = .pop_HL ∨ i = .pop_AF ∨ i = .ret

/-- PUSH of a pair (43_stack.md R161, R162). -/
def pushOf : Pair → Instr
  | .bc => .push_BC | .de => .push_DE | .hl => .push_HL | .af => .push_AF

/-- POP into a pair (43_stack.md R163, R164). -/
def popOf : Pair → Instr
  | .bc => .pop_BC | .de => .pop_DE | .hl => .pop_HL | .af => .pop_AF

/-- The first-named register of a pair, its high byte (10_state.md R25). -/
def highOf (p : Pair) (s : State) : Byte :=
  match p with
  | .bc => s.b | .de => s.d | .hl => s.h | .af => s.a

/-- The second-named register of a pair, its low byte (10_state.md R25). -/
def lowOf (p : Pair) (s : State) : Byte :=
  match p with
  | .bc => s.c | .de => s.e | .hl => s.l | .af => s.f

/-- The instructions that write PC beyond the fetch (42_control.md R140-R143). -/
def TransfersControl (i : Instr) : Prop :=
  i = .ret ∨ (∃ e, i = .jr_e e) ∨ ∃ nn, i = .jp_nn nn ∨ i = .call_nn nn

/-- The rows of the flag table (10_state.md R28): INC, DEC, XOR and POP AF. -/
def WritesFlags (i : Instr) : Prop :=
  i ∈ [.inc_B, .inc_C, .inc_D, .inc_E, .inc_H, .inc_L, .inc_A, .dec_B, .dec_C, .dec_D, .dec_E, .dec_H, .dec_L, .dec_A,
    .xor_B, .xor_C, .xor_D, .xor_E, .xor_H, .xor_L, .xor_A, .pop_AF]

/-- F after INC of `v` (41_alu8.md R121): Z, N = 0, H, and C kept from the old F. -/
def incF (f v : Byte) : Byte :=
  (if v + 1 = 0 then 0x80 else 0) ||| (if v &&& 0x0F = 0x0F then 0x20 else 0) ||| (f &&& 0x10)

/-- F after DEC of `v` (41_alu8.md R122): Z, N = 1, H, and C kept from the old F. -/
def decF (f v : Byte) : Byte :=
  (if v - 1 = 0 then 0x80 else 0) ||| 0x40 ||| (if v &&& 0x0F = 0x00 then 0x20 else 0) ||| (f &&& 0x10)

/-- F after XOR with result `v` (41_alu8.md R123). -/
def xorF (v : Byte) : Byte := if v = 0 then 0x80 else 0x00

/-- What memory holds in `t` after `lo` is stored at `s.sp - 2` and `hi` at `s.sp - 1`: those bytes, under every address that
reaches them, hold the value (0xFF where they are unmapped), and every other byte of memory reads as in `s`. The first part
asks for a memory in canonical form. -/
def PushedBytes (s t : State) (lo hi : Byte) : Prop :=
  (s.bus.mem.wf = true →
    (∀ x, SameByte x (s.sp - 2) → memRead t x = if Unmapped x then 0xFF else lo) ∧
    (∀ x, SameByte x (s.sp - 1) → memRead t x = if Unmapped x then 0xFF else hi)) ∧
  ∀ x, ¬ SameByte x (s.sp - 2) → ¬ SameByte x (s.sp - 1) → memRead t x = memRead s x

/-- The state with another IE byte. -/
def withIe (v : Byte) (s : State) : State := { s with bus := { s.bus with ie := v } }

/-- A result with the state in it changed. -/
def mapState (g : State → State) : Result → Result
  | .next t => .next (g t)
  | .fault (.unimplementedOpcode op t) => .fault (.unimplementedOpcode op (g t))
  | .fault (.writeToReadOnlyRegion x t) => .fault (.writeToReadOnlyRegion x (g t))
  | .fault (.romTooLarge n k t) => .fault (.romTooLarge n k (g t))
  | .refused r => .refused r

/-- The step reads or writes the byte at `x`: among the bytes it fetches, or among the two bytes of its stack access. -/
def StepTouches (s : State) (x : Addr) : Prop :=
  (∃ k < (fetchInstr s).1.length, s.pc + BitVec.ofNat 16 k = x) ∨
  (ReadsStack (fetchInstr s).1 ∧ (s.sp = x ∨ s.sp + 1 = x)) ∨
  (WritesMemory (fetchInstr s).1 ∧ (s.sp - 2 = x ∨ s.sp - 1 = x))

end Sys2Proof.Machine
end

