-- ==== Sys2Proof/Certificates/Slice0/Obligations.lean ====
section
/-!
DEFINITION. The statements for the provers. A result statement answers `exec i s = .next t` with `t` written out over the
raw fields, so that it is the instruction's completion, result and frame in one: every field not named is unchanged, and
where `bus` is not named every byte of memory reads as before.
-/

open Sys2Proof Sys2Proof.Machine

/-- R35, R210: the construction state. Every register, flag and pair, and every byte of ROM, VRAM, WRAM, HRAM and IE. -/
def Obligations.ResetState : Prop :=
  newCpu = State.reset ∧
  State.reset.a = 0x01 ∧ State.reset.f = 0xB0 ∧ State.reset.b = 0x00 ∧ State.reset.c = 0x13 ∧ State.reset.d = 0x00 ∧
  State.reset.e = 0xD8 ∧ State.reset.h = 0x01 ∧ State.reset.l = 0x4D ∧ State.reset.sp = 0xFFFE ∧ State.reset.pc = 0x0100 ∧
  State.reset.flag .z = true ∧ State.reset.flag .n = false ∧ State.reset.flag .h = true ∧ State.reset.flag .c = true ∧
  State.reset.pair .af = 0x01B0 ∧ State.reset.pair .bc = 0x0013 ∧ State.reset.pair .de = 0x00D8 ∧
  State.reset.pair .hl = 0x014D ∧
  State.reset.bus.ie = 0x00 ∧ ∀ x, ¬ Unmapped x → memRead State.reset x = 0x00

/-- The invariant of the machine holds at reset. F low nibble 0 is the spec's (R22, R24); that memory is in canonical form is the model's own choice of representation (log 2), no rule of the spec. -/
def Obligations.ResetInvariant : Prop :=
  MachineInv State.reset

/-- R80, R82, R84: a step decodes the bytes at PC and executes that instruction with PC moved past the bytes it has; nothing else is added around exec. -/
def Obligations.StepRunsDecoded : Prop :=
  ∀ (s : State) (i : Instr) (rest : List Byte),
    decode [memRead s s.pc, memRead s (s.pc + 1), memRead s (s.pc + 2)] = .ok (i, rest) →
    step s = exec i { s with pc := s.pc + BitVec.ofNat 16 i.length } ∧ i.length + rest.length = 3

/-- Words written out from the bit layouts of R89 and the examples of 95_test_vectors.md. -/
def Obligations.DecodesSpecWords : Prop :=
  decode [0b00000000] = .ok (.nop, []) ∧ decode [0b00000110, 0x42] = .ok (.ld_B_n 0x42, []) ∧
  decode [0b01000001] = .ok (.ld_B_C, []) ∧ decode [0b00100001, 0x34, 0x12] = .ok (.ld_HL_nn 0x1234, []) ∧
  decode [0b00110001, 0xFE, 0xFF] = .ok (.ld_SP_nn 0xFFFE, []) ∧ decode [0b00111100] = .ok (.inc_A, []) ∧
  decode [0b00001101] = .ok (.dec_C, []) ∧ decode [0b10101101] = .ok (.xor_L, []) ∧
  decode [0b11000011, 0x50, 0x01] = .ok (.jp_nn 0x0150, []) ∧ decode [0b00011000, 0xFD] = .ok (.jr_e 0xFD, []) ∧
  decode [0b11001101, 0x00, 0xC0] = .ok (.call_nn 0xC000, []) ∧ decode [0b11001001] = .ok (.ret, []) ∧
  decode [0b11000101] = .ok (.push_BC, []) ∧ decode [0b11110001] = .ok (.pop_AF, []) ∧
  decode [0b01110110] = .ok (.unimplemented 0x76, []) ∧ decode [0b11001011] = .ok (.unimplemented 0xCB, [])

/-- The decoder (the table of R90, R96) undoes the encoder (the layouts of R87, R88, R89) for every well-formed instruction and every operand. -/
def Obligations.DecodeOfEncode : Prop :=
  ∀ (i : Instr) (rest : List Byte), i.wf = true → decode (encode i ++ rest) = .ok (i, rest)

/-- Decoding is unambiguous and drops no bit: what it reads is well formed and its encoding is the bytes read. -/
def Obligations.EncodeOfDecode : Prop :=
  ∀ (bytes : List Byte) (i : Instr) (rest : List Byte),
    decode bytes = .ok (i, rest) → i.wf = true ∧ bytes = encode i ++ rest

/-- Exactly 94 distinct opcode bytes are admitted. Each of them, followed by two bytes, decodes to an instruction other than the unimplemented one; exactly the others decode as unimplemented, whatever follows, and consume one byte. Which 94 bytes these are is the spec's own decision ("The choice of which opcodes of each §4.3 class are admitted is [decision: see 92_eei_decisions.md D1, D3]", R90). -/
def Obligations.AdmittedOpcodes : Prop :=
  implementedOpcodes.length = 94 ∧ implementedOpcodes.Nodup ∧
  (∀ (op x y : Byte) (rest : List Byte), implementedOpcode op = true →
    ∃ i left, decode (op :: x :: y :: rest) = .ok (i, left) ∧ ∀ z, i ≠ .unimplemented z) ∧
  ∀ (op : Byte) (rest : List Byte), decode (op :: rest) = .ok (.unimplemented op, rest) ↔ implementedOpcode op = false

/-- The opcode byte alone fixes the length, which is 1, 2 or 3. -/
def Obligations.LengthFixedByOpcode : Prop :=
  ∀ i j : Instr, i.wf = true → j.wf = true → (encode i).head? = (encode j).head? →
    i.length = j.length ∧ 1 ≤ i.length ∧ i.length ≤ 3

/-- R100: NOP changes nothing beyond the fetch. The rule also gives the encoding and the cycle cost, which the last clauses state. -/
def Obligations.NopDoesNothing : Prop :=
  (∀ s, exec .nop s = .next s) ∧
  decode [0x00] = .ok (.nop, []) ∧ cycles .nop = 4

/-- R101, with its frame: only the destination register changes; flags, SP, PC and the bus keep their value. The rule also gives the encoding and the cycle cost, which the last clauses state. -/
def Obligations.LoadImmediateByte : Prop :=
  (∀ n s, exec (.ld_B_n n) s = .next { s with b := n }) ∧
  (∀ n s, exec (.ld_C_n n) s = .next { s with c := n }) ∧
  (∀ n s, exec (.ld_D_n n) s = .next { s with d := n }) ∧
  (∀ n s, exec (.ld_E_n n) s = .next { s with e := n }) ∧
  (∀ n s, exec (.ld_H_n n) s = .next { s with h := n }) ∧
  (∀ n s, exec (.ld_L_n n) s = .next { s with l := n }) ∧
  (∀ n s, exec (.ld_A_n n) s = .next { s with a := n }) ∧
  (∀ n, decode [0x06, n] = .ok (.ld_B_n n, [])) ∧ (∀ n, decode [0x0E, n] = .ok (.ld_C_n n, [])) ∧
  (∀ n, decode [0x16, n] = .ok (.ld_D_n n, [])) ∧ (∀ n, decode [0x1E, n] = .ok (.ld_E_n n, [])) ∧
  (∀ n, decode [0x26, n] = .ok (.ld_H_n n, [])) ∧ (∀ n, decode [0x2E, n] = .ok (.ld_L_n n, [])) ∧
  (∀ n, decode [0x3E, n] = .ok (.ld_A_n n, [])) ∧ (∀ n, cycles (.ld_B_n n) = 8) ∧ (∀ n, cycles (.ld_C_n n) = 8) ∧
  (∀ n, cycles (.ld_D_n n) = 8) ∧ (∀ n, cycles (.ld_E_n n) = 8) ∧ (∀ n, cycles (.ld_H_n n) = 8) ∧
  (∀ n, cycles (.ld_L_n n) = 8) ∧ (∀ n, cycles (.ld_A_n n) = 8)

/-- R102, all 49 forms, with its frame: only the destination changes (nothing, where source and destination agree). The rule also gives the encoding and the cycle cost, which the last clauses state. -/
def Obligations.CopyRegister : Prop :=
  (∀ s, exec .ld_B_B s = .next { s with b := s.b }) ∧
  (∀ s, exec .ld_B_C s = .next { s with b := s.c }) ∧
  (∀ s, exec .ld_B_D s = .next { s with b := s.d }) ∧
  (∀ s, exec .ld_B_E s = .next { s with b := s.e }) ∧
  (∀ s, exec .ld_B_H s = .next { s with b := s.h }) ∧
  (∀ s, exec .ld_B_L s = .next { s with b := s.l }) ∧
  (∀ s, exec .ld_B_A s = .next { s with b := s.a }) ∧
  (∀ s, exec .ld_C_B s = .next { s with c := s.b }) ∧
  (∀ s, exec .ld_C_C s = .next { s with c := s.c }) ∧
  (∀ s, exec .ld_C_D s = .next { s with c := s.d }) ∧
  (∀ s, exec .ld_C_E s = .next { s with c := s.e }) ∧
  (∀ s, exec .ld_C_H s = .next { s with c := s.h }) ∧
  (∀ s, exec .ld_C_L s = .next { s with c := s.l }) ∧
  (∀ s, exec .ld_C_A s = .next { s with c := s.a }) ∧
  (∀ s, exec .ld_D_B s = .next { s with d := s.b }) ∧
  (∀ s, exec .ld_D_C s = .next { s with d := s.c }) ∧
  (∀ s, exec .ld_D_D s = .next { s with d := s.d }) ∧
  (∀ s, exec .ld_D_E s = .next { s with d := s.e }) ∧
  (∀ s, exec .ld_D_H s = .next { s with d := s.h }) ∧
  (∀ s, exec .ld_D_L s = .next { s with d := s.l }) ∧
  (∀ s, exec .ld_D_A s = .next { s with d := s.a }) ∧
  (∀ s, exec .ld_E_B s = .next { s with e := s.b }) ∧
  (∀ s, exec .ld_E_C s = .next { s with e := s.c }) ∧
  (∀ s, exec .ld_E_D s = .next { s with e := s.d }) ∧
  (∀ s, exec .ld_E_E s = .next { s with e := s.e }) ∧
  (∀ s, exec .ld_E_H s = .next { s with e := s.h }) ∧
  (∀ s, exec .ld_E_L s = .next { s with e := s.l }) ∧
  (∀ s, exec .ld_E_A s = .next { s with e := s.a }) ∧
  (∀ s, exec .ld_H_B s = .next { s with h := s.b }) ∧
  (∀ s, exec .ld_H_C s = .next { s with h := s.c }) ∧
  (∀ s, exec .ld_H_D s = .next { s with h := s.d }) ∧
  (∀ s, exec .ld_H_E s = .next { s with h := s.e }) ∧
  (∀ s, exec .ld_H_H s = .next { s with h := s.h }) ∧
  (∀ s, exec .ld_H_L s = .next { s with h := s.l }) ∧
  (∀ s, exec .ld_H_A s = .next { s with h := s.a }) ∧
  (∀ s, exec .ld_L_B s = .next { s with l := s.b }) ∧
  (∀ s, exec .ld_L_C s = .next { s with l := s.c }) ∧
  (∀ s, exec .ld_L_D s = .next { s with l := s.d }) ∧
  (∀ s, exec .ld_L_E s = .next { s with l := s.e }) ∧
  (∀ s, exec .ld_L_H s = .next { s with l := s.h }) ∧
  (∀ s, exec .ld_L_L s = .next { s with l := s.l }) ∧
  (∀ s, exec .ld_L_A s = .next { s with l := s.a }) ∧
  (∀ s, exec .ld_A_B s = .next { s with a := s.b }) ∧
  (∀ s, exec .ld_A_C s = .next { s with a := s.c }) ∧
  (∀ s, exec .ld_A_D s = .next { s with a := s.d }) ∧
  (∀ s, exec .ld_A_E s = .next { s with a := s.e }) ∧
  (∀ s, exec .ld_A_H s = .next { s with a := s.h }) ∧
  (∀ s, exec .ld_A_L s = .next { s with a := s.l }) ∧
  (∀ s, exec .ld_A_A s = .next { s with a := s.a }) ∧
  decode [0x40] = .ok (.ld_B_B, []) ∧ decode [0x41] = .ok (.ld_B_C, []) ∧ decode [0x42] = .ok (.ld_B_D, []) ∧
  decode [0x43] = .ok (.ld_B_E, []) ∧ decode [0x44] = .ok (.ld_B_H, []) ∧ decode [0x45] = .ok (.ld_B_L, []) ∧
  decode [0x47] = .ok (.ld_B_A, []) ∧ decode [0x48] = .ok (.ld_C_B, []) ∧ decode [0x49] = .ok (.ld_C_C, []) ∧
  decode [0x4A] = .ok (.ld_C_D, []) ∧ decode [0x4B] = .ok (.ld_C_E, []) ∧ decode [0x4C] = .ok (.ld_C_H, []) ∧
  decode [0x4D] = .ok (.ld_C_L, []) ∧ decode [0x4F] = .ok (.ld_C_A, []) ∧ decode [0x50] = .ok (.ld_D_B, []) ∧
  decode [0x51] = .ok (.ld_D_C, []) ∧ decode [0x52] = .ok (.ld_D_D, []) ∧ decode [0x53] = .ok (.ld_D_E, []) ∧
  decode [0x54] = .ok (.ld_D_H, []) ∧ decode [0x55] = .ok (.ld_D_L, []) ∧ decode [0x57] = .ok (.ld_D_A, []) ∧
  decode [0x58] = .ok (.ld_E_B, []) ∧ decode [0x59] = .ok (.ld_E_C, []) ∧ decode [0x5A] = .ok (.ld_E_D, []) ∧
  decode [0x5B] = .ok (.ld_E_E, []) ∧ decode [0x5C] = .ok (.ld_E_H, []) ∧ decode [0x5D] = .ok (.ld_E_L, []) ∧
  decode [0x5F] = .ok (.ld_E_A, []) ∧ decode [0x60] = .ok (.ld_H_B, []) ∧ decode [0x61] = .ok (.ld_H_C, []) ∧
  decode [0x62] = .ok (.ld_H_D, []) ∧ decode [0x63] = .ok (.ld_H_E, []) ∧ decode [0x64] = .ok (.ld_H_H, []) ∧
  decode [0x65] = .ok (.ld_H_L, []) ∧ decode [0x67] = .ok (.ld_H_A, []) ∧ decode [0x68] = .ok (.ld_L_B, []) ∧
  decode [0x69] = .ok (.ld_L_C, []) ∧ decode [0x6A] = .ok (.ld_L_D, []) ∧ decode [0x6B] = .ok (.ld_L_E, []) ∧
  decode [0x6C] = .ok (.ld_L_H, []) ∧ decode [0x6D] = .ok (.ld_L_L, []) ∧ decode [0x6F] = .ok (.ld_L_A, []) ∧
  decode [0x78] = .ok (.ld_A_B, []) ∧ decode [0x79] = .ok (.ld_A_C, []) ∧ decode [0x7A] = .ok (.ld_A_D, []) ∧
  decode [0x7B] = .ok (.ld_A_E, []) ∧ decode [0x7C] = .ok (.ld_A_H, []) ∧ decode [0x7D] = .ok (.ld_A_L, []) ∧
  decode [0x7F] = .ok (.ld_A_A, []) ∧ cycles .ld_B_B = 4 ∧ cycles .ld_B_C = 4 ∧ cycles .ld_B_D = 4 ∧
  cycles .ld_B_E = 4 ∧ cycles .ld_B_H = 4 ∧ cycles .ld_B_L = 4 ∧ cycles .ld_B_A = 4 ∧ cycles .ld_C_B = 4 ∧
  cycles .ld_C_C = 4 ∧ cycles .ld_C_D = 4 ∧ cycles .ld_C_E = 4 ∧ cycles .ld_C_H = 4 ∧ cycles .ld_C_L = 4 ∧
  cycles .ld_C_A = 4 ∧ cycles .ld_D_B = 4 ∧ cycles .ld_D_C = 4 ∧ cycles .ld_D_D = 4 ∧ cycles .ld_D_E = 4 ∧
  cycles .ld_D_H = 4 ∧ cycles .ld_D_L = 4 ∧ cycles .ld_D_A = 4 ∧ cycles .ld_E_B = 4 ∧ cycles .ld_E_C = 4 ∧
  cycles .ld_E_D = 4 ∧ cycles .ld_E_E = 4 ∧ cycles .ld_E_H = 4 ∧ cycles .ld_E_L = 4 ∧ cycles .ld_E_A = 4 ∧
  cycles .ld_H_B = 4 ∧ cycles .ld_H_C = 4 ∧ cycles .ld_H_D = 4 ∧ cycles .ld_H_E = 4 ∧ cycles .ld_H_H = 4 ∧
  cycles .ld_H_L = 4 ∧ cycles .ld_H_A = 4 ∧ cycles .ld_L_B = 4 ∧ cycles .ld_L_C = 4 ∧ cycles .ld_L_D = 4 ∧
  cycles .ld_L_E = 4 ∧ cycles .ld_L_H = 4 ∧ cycles .ld_L_L = 4 ∧ cycles .ld_L_A = 4 ∧ cycles .ld_A_B = 4 ∧
  cycles .ld_A_C = 4 ∧ cycles .ld_A_D = 4 ∧ cycles .ld_A_E = 4 ∧ cycles .ld_A_H = 4 ∧ cycles .ld_A_L = 4 ∧
  cycles .ld_A_A = 4

/-- R103, with its frame: the high byte goes to the first-named register, the low byte to the second, and nothing else changes. The rule also gives the encoding and the cycle cost, which the last clauses state. -/
def Obligations.LoadPairImmediate : Prop :=
  (∀ (nn : Word) s, exec (.ld_BC_nn nn) s =
    .next { s with b := BitVec.ofNat 8 (nn.toNat / 256), c := BitVec.ofNat 8 nn.toNat }) ∧
  (∀ (nn : Word) s, exec (.ld_DE_nn nn) s =
    .next { s with d := BitVec.ofNat 8 (nn.toNat / 256), e := BitVec.ofNat 8 nn.toNat }) ∧
  (∀ (nn : Word) s, exec (.ld_HL_nn nn) s =
    .next { s with h := BitVec.ofNat 8 (nn.toNat / 256), l := BitVec.ofNat 8 nn.toNat }) ∧
  (∀ lo hi nn, nn.toNat = 256 * hi.toNat + lo.toNat → decode [0x01, lo, hi] = .ok (.ld_BC_nn nn, [])) ∧
  (∀ lo hi nn, nn.toNat = 256 * hi.toNat + lo.toNat → decode [0x11, lo, hi] = .ok (.ld_DE_nn nn, [])) ∧
  (∀ lo hi nn, nn.toNat = 256 * hi.toNat + lo.toNat → decode [0x21, lo, hi] = .ok (.ld_HL_nn nn, [])) ∧
  (∀ nn, cycles (.ld_BC_nn nn) = 12) ∧ (∀ nn, cycles (.ld_DE_nn nn) = 12) ∧ (∀ nn, cycles (.ld_HL_nn nn) = 12)

/-- R104, with its frame: any value is legal for SP and nothing else changes. That the subset has this opcode is the spec's own decision ("It is admitted as a member of the class", 92_eei_decisions.md D3). The rule also gives the encoding and the cycle cost, which the last clauses state. -/
def Obligations.LoadStackPointer : Prop :=
  (∀ (nn : Word) s, exec (.ld_SP_nn nn) s = .next { s with sp := nn }) ∧
  (∀ lo hi nn, nn.toNat = 256 * hi.toNat + lo.toNat → decode [0x31, lo, hi] = .ok (.ld_SP_nn nn, [])) ∧
  (∀ nn, cycles (.ld_SP_nn nn) = 12)

/-- R121, with its frame: Z, N and H as the rule gives them, C kept, F[3:0] = 0, and only the register and F change. The rule also gives the encoding and the cycle cost, which the last clauses state. -/
def Obligations.IncrementRegister : Prop :=
  (∀ s, exec .inc_B s = .next { s with b := s.b + 1, f := incF s.f s.b }) ∧
  (∀ s, exec .inc_C s = .next { s with c := s.c + 1, f := incF s.f s.c }) ∧
  (∀ s, exec .inc_D s = .next { s with d := s.d + 1, f := incF s.f s.d }) ∧
  (∀ s, exec .inc_E s = .next { s with e := s.e + 1, f := incF s.f s.e }) ∧
  (∀ s, exec .inc_H s = .next { s with h := s.h + 1, f := incF s.f s.h }) ∧
  (∀ s, exec .inc_L s = .next { s with l := s.l + 1, f := incF s.f s.l }) ∧
  (∀ s, exec .inc_A s = .next { s with a := s.a + 1, f := incF s.f s.a }) ∧
  decode [0x04] = .ok (.inc_B, []) ∧ decode [0x0C] = .ok (.inc_C, []) ∧ decode [0x14] = .ok (.inc_D, []) ∧
  decode [0x1C] = .ok (.inc_E, []) ∧ decode [0x24] = .ok (.inc_H, []) ∧ decode [0x2C] = .ok (.inc_L, []) ∧
  decode [0x3C] = .ok (.inc_A, []) ∧ cycles .inc_B = 4 ∧ cycles .inc_C = 4 ∧ cycles .inc_D = 4 ∧
  cycles .inc_E = 4 ∧ cycles .inc_H = 4 ∧ cycles .inc_L = 4 ∧ cycles .inc_A = 4

/-- R122, with its frame: Z, N and H as the rule gives them, C kept, F[3:0] = 0, and only the register and F change. The rule also gives the encoding and the cycle cost, which the last clauses state. -/
def Obligations.DecrementRegister : Prop :=
  (∀ s, exec .dec_B s = .next { s with b := s.b - 1, f := decF s.f s.b }) ∧
  (∀ s, exec .dec_C s = .next { s with c := s.c - 1, f := decF s.f s.c }) ∧
  (∀ s, exec .dec_D s = .next { s with d := s.d - 1, f := decF s.f s.d }) ∧
  (∀ s, exec .dec_E s = .next { s with e := s.e - 1, f := decF s.f s.e }) ∧
  (∀ s, exec .dec_H s = .next { s with h := s.h - 1, f := decF s.f s.h }) ∧
  (∀ s, exec .dec_L s = .next { s with l := s.l - 1, f := decF s.f s.l }) ∧
  (∀ s, exec .dec_A s = .next { s with a := s.a - 1, f := decF s.f s.a }) ∧
  decode [0x05] = .ok (.dec_B, []) ∧ decode [0x0D] = .ok (.dec_C, []) ∧ decode [0x15] = .ok (.dec_D, []) ∧
  decode [0x1D] = .ok (.dec_E, []) ∧ decode [0x25] = .ok (.dec_H, []) ∧ decode [0x2D] = .ok (.dec_L, []) ∧
  decode [0x3D] = .ok (.dec_A, []) ∧ cycles .dec_B = 4 ∧ cycles .dec_C = 4 ∧ cycles .dec_D = 4 ∧
  cycles .dec_E = 4 ∧ cycles .dec_H = 4 ∧ cycles .dec_L = 4 ∧ cycles .dec_A = 4

/-- R123, with its frame: A and all of F are written; XOR A gives A = 0 and F = 0x80 from every state. The rule also gives the encoding and the cycle cost, which the last clauses state. -/
def Obligations.ExclusiveOr : Prop :=
  (∀ s, exec .xor_B s = .next { s with a := s.a ^^^ s.b, f := xorF (s.a ^^^ s.b) }) ∧
  (∀ s, exec .xor_C s = .next { s with a := s.a ^^^ s.c, f := xorF (s.a ^^^ s.c) }) ∧
  (∀ s, exec .xor_D s = .next { s with a := s.a ^^^ s.d, f := xorF (s.a ^^^ s.d) }) ∧
  (∀ s, exec .xor_E s = .next { s with a := s.a ^^^ s.e, f := xorF (s.a ^^^ s.e) }) ∧
  (∀ s, exec .xor_H s = .next { s with a := s.a ^^^ s.h, f := xorF (s.a ^^^ s.h) }) ∧
  (∀ s, exec .xor_L s = .next { s with a := s.a ^^^ s.l, f := xorF (s.a ^^^ s.l) }) ∧
  (∀ s, exec .xor_A s = .next { s with a := s.a ^^^ s.a, f := xorF (s.a ^^^ s.a) }) ∧
  (∀ s, exec .xor_A s = .next { s with a := 0x00, f := 0x80 }) ∧
  decode [0xA8] = .ok (.xor_B, []) ∧ decode [0xA9] = .ok (.xor_C, []) ∧ decode [0xAA] = .ok (.xor_D, []) ∧
  decode [0xAB] = .ok (.xor_E, []) ∧ decode [0xAC] = .ok (.xor_H, []) ∧ decode [0xAD] = .ok (.xor_L, []) ∧
  decode [0xAF] = .ok (.xor_A, []) ∧ cycles .xor_B = 4 ∧ cycles .xor_C = 4 ∧ cycles .xor_D = 4 ∧
  cycles .xor_E = 4 ∧ cycles .xor_H = 4 ∧ cycles .xor_L = 4 ∧ cycles .xor_A = 4

/-- R140, with its frame: only PC changes, and any 16-bit target is taken. The rule also gives the encoding and the cycle cost, which the last clauses state. -/
def Obligations.JumpAbsolute : Prop :=
  (∀ (nn : Word) s, exec (.jp_nn nn) s = .next { s with pc := nn }) ∧
  (∀ lo hi nn, nn.toNat = 256 * hi.toNat + lo.toNat → decode [0xC3, lo, hi] = .ok (.jp_nn nn, [])) ∧
  (∀ nn, cycles (.jp_nn nn) = 16)

/-- R141, with its frame: the displacement is two's complement, the target is PC after the fetch plus it, modulo 65536, and only PC changes. The rule also gives the encoding and the cycle cost, which the last clauses state. -/
def Obligations.JumpRelative : Prop :=
  (∀ (e : Byte) s, exec (.jr_e e) s = .next { s with pc := BitVec.ofInt 16 ((s.pc.toNat : Int) + e.toInt) }) ∧
  (∀ e, decode [0x18, e] = .ok (.jr_e e, [])) ∧ (∀ e, cycles (.jr_e e) = 12)

/-- R142. Where no stack byte is in ROM the call completes; its frame: SP, PC and the two stored bytes change and nothing else. Where the low byte is in ROM, and where only the high byte is (SP = 1), it stops at that write, with SP decremented, PC not the target, and the earlier write kept. The three cases are all there are. The write order and the state left by a stop are the spec's own decisions ("The order of the two writes, low then high, is [decision: see 92_eei_decisions.md D5]"; D6, log 6). The rule also gives the encoding and the cycle cost, which the last clauses state. -/
def Obligations.CallSubroutine : Prop :=
  (∀ (nn : Word) s, PushAllowed s.sp →
    ∃ t, exec (.call_nn nn) s = .next t ∧ t = { s with sp := s.sp - 2, pc := nn, bus := t.bus } ∧ PushedBytes s t (BitVec.ofNat 8 s.pc.toNat) (BitVec.ofNat 8 (s.pc.toNat / 256))) ∧
  (∀ (nn : Word) s, (s.sp - 2).toNat ≤ 0x7FFF →
    exec (.call_nn nn) s = .fault (.writeToReadOnlyRegion (s.sp - 2) { s with sp := s.sp - 2 })) ∧
  (∀ (nn : Word) s, s.sp = 0x0001 → exec (.call_nn nn) s =
    .fault (.writeToReadOnlyRegion 0x0000 { s with sp := 0xFFFF, bus := { s.bus with ie := (BitVec.ofNat 8 s.pc.toNat) } })) ∧
  (∀ lo hi nn, nn.toNat = 256 * hi.toNat + lo.toNat → decode [0xCD, lo, hi] = .ok (.call_nn nn, [])) ∧
  (∀ nn, cycles (.call_nn nn) = 24)

/-- R143, with its frame: SP and PC change and nothing else; the read never fails. The rule also gives the encoding and the cycle cost, which the last clauses state. -/
def Obligations.ReturnFromSubroutine : Prop :=
  (∀ s, exec .ret s =
    .next { s with sp := s.sp + 2, pc := BitVec.ofNat 16 (256 * (memRead s (s.sp + 1)).toNat + (memRead s s.sp).toNat) }) ∧
  decode [0xC9] = .ok (.ret, []) ∧ cycles .ret = 16

/-- R161 for BC, DE and HL. Where no stack byte is in ROM the push completes; its frame: SP and the two stored bytes change and nothing else. Otherwise it stops at the first ROM write with SP already decremented. The write order and the state left by a stop are the spec's own decisions ("The write order, low then high, is [decision: see 92_eei_decisions.md D5]"; D6, log 6). The rule also gives the encoding and the cycle cost, which the last clauses state. -/
def Obligations.PushPair : Prop :=
  (∀ s, PushAllowed s.sp →
    ∃ t, exec .push_BC s = .next t ∧ t = { s with sp := s.sp - 2, bus := t.bus } ∧ PushedBytes s t s.c s.b) ∧
  (∀ s, (s.sp - 2).toNat ≤ 0x7FFF →
    exec .push_BC s = .fault (.writeToReadOnlyRegion (s.sp - 2) { s with sp := s.sp - 2 })) ∧
  (∀ s, s.sp = 0x0001 → exec .push_BC s =
    .fault (.writeToReadOnlyRegion 0x0000 { s with sp := 0xFFFF, bus := { s.bus with ie := s.c } })) ∧
  (∀ s, PushAllowed s.sp →
    ∃ t, exec .push_DE s = .next t ∧ t = { s with sp := s.sp - 2, bus := t.bus } ∧ PushedBytes s t s.e s.d) ∧
  (∀ s, (s.sp - 2).toNat ≤ 0x7FFF →
    exec .push_DE s = .fault (.writeToReadOnlyRegion (s.sp - 2) { s with sp := s.sp - 2 })) ∧
  (∀ s, s.sp = 0x0001 → exec .push_DE s =
    .fault (.writeToReadOnlyRegion 0x0000 { s with sp := 0xFFFF, bus := { s.bus with ie := s.e } })) ∧
  (∀ s, PushAllowed s.sp →
    ∃ t, exec .push_HL s = .next t ∧ t = { s with sp := s.sp - 2, bus := t.bus } ∧ PushedBytes s t s.l s.h) ∧
  (∀ s, (s.sp - 2).toNat ≤ 0x7FFF →
    exec .push_HL s = .fault (.writeToReadOnlyRegion (s.sp - 2) { s with sp := s.sp - 2 })) ∧
  (∀ s, s.sp = 0x0001 → exec .push_HL s =
    .fault (.writeToReadOnlyRegion 0x0000 { s with sp := 0xFFFF, bus := { s.bus with ie := s.l } })) ∧
  decode [0xC5] = .ok (.push_BC, []) ∧ decode [0xD5] = .ok (.push_DE, []) ∧ decode [0xE5] = .ok (.push_HL, []) ∧
  cycles .push_BC = 16 ∧ cycles .push_DE = 16 ∧ cycles .push_HL = 16

/-- R162. As R161 with A high and F low; in every state that meets the invariant the stored low byte has low nibble 0. The flags are read, not written. The write order and the state left by a stop are the spec's own decisions D5 and D6 (log 6), as in R161. The rule also gives the encoding and the cycle cost, which the last clauses state. -/
def Obligations.PushAccumulatorAndFlags : Prop :=
  (∀ s, PushAllowed s.sp →
    ∃ t, exec .push_AF s = .next t ∧ t = { s with sp := s.sp - 2, bus := t.bus } ∧ PushedBytes s t s.f s.a) ∧
  (∀ s, (s.sp - 2).toNat ≤ 0x7FFF →
    exec .push_AF s = .fault (.writeToReadOnlyRegion (s.sp - 2) { s with sp := s.sp - 2 })) ∧
  (∀ s, s.sp = 0x0001 → exec .push_AF s =
    .fault (.writeToReadOnlyRegion 0x0000 { s with sp := 0xFFFF, bus := { s.bus with ie := s.f } })) ∧
  (∀ s t, MachineInv s → exec .push_AF s = .next t → ¬ Unmapped (s.sp - 2) → memRead t (s.sp - 2) &&& 0x0F = 0) ∧
  decode [0xF5] = .ok (.push_AF, []) ∧ cycles .push_AF = 16

/-- R163 for BC, DE and HL, with its frame: the pair and SP change and nothing else; the memory bytes stay. The rule also gives the encoding and the cycle cost, which the last clauses state. -/
def Obligations.PopPair : Prop :=
  (∀ s, exec .pop_BC s =
    .next { s with sp := s.sp + 2, b := memRead s (s.sp + 1), c := memRead s s.sp }) ∧
  (∀ s, exec .pop_DE s =
    .next { s with sp := s.sp + 2, d := memRead s (s.sp + 1), e := memRead s s.sp }) ∧
  (∀ s, exec .pop_HL s =
    .next { s with sp := s.sp + 2, h := memRead s (s.sp + 1), l := memRead s s.sp }) ∧
  decode [0xC1] = .ok (.pop_BC, []) ∧ decode [0xD1] = .ok (.pop_DE, []) ∧ decode [0xE1] = .ok (.pop_HL, []) ∧
  cycles .pop_BC = 12 ∧ cycles .pop_DE = 12 ∧ cycles .pop_HL = 12

/-- R164, with its frame: A, F and SP change and nothing else; the low byte is masked; no other instruction sets C. The rule also gives the encoding and the cycle cost, which the last clauses state. -/
def Obligations.PopAccumulatorAndFlags : Prop :=
  (∀ s, exec .pop_AF s =
    .next { s with sp := s.sp + 2, a := memRead s (s.sp + 1), f := memRead s s.sp &&& 0xF0 }) ∧
  (∀ i s t, exec i s = .next t → s.flag .c = false → t.flag .c = true → i = .pop_AF) ∧
  decode [0xF1] = .ok (.pop_AF, []) ∧ cycles .pop_AF = 12

/-- R183: an opcode byte outside R90 ends the step; the payload is the byte, no operand is fetched, PC is one past the opcode, nothing else changes, and 0 cycles are reported. The second clause is the stop of the constructor. -/
def Obligations.UnimplementedOpcodeStops : Prop :=
  (∀ s, implementedOpcode (memRead s s.pc) = false →
    step s = .fault (.unimplementedOpcode (memRead s s.pc) { s with pc := s.pc + 1 }) ∧ (cpuStep s).1 = 0) ∧
  (∀ op s, exec (.unimplemented op) s = .fault (.unimplementedOpcode op s))

/-- R52, over the rows of R51: every address has exactly one class, the one of its range. -/
def Obligations.AddressMapTotalUnique : Prop :=
  ∀ x : Addr,
    (region x = .rom ↔ x.toNat ≤ 0x7FFF) ∧ (region x = .vram ↔ 0x8000 ≤ x.toNat ∧ x.toNat ≤ 0x9FFF) ∧
    (region x = .wram ↔ 0xC000 ≤ x.toNat ∧ x.toNat ≤ 0xDFFF) ∧ (region x = .echo ↔ 0xE000 ≤ x.toNat ∧ x.toNat ≤ 0xFDFF) ∧
    (region x = .hram ↔ 0xFF80 ≤ x.toNat ∧ x.toNat ≤ 0xFFFE) ∧ (region x = .ie ↔ x.toNat = 0xFFFF) ∧
    (region x = .unmapped ↔ (0xA000 ≤ x.toNat ∧ x.toNat ≤ 0xBFFF) ∨ (0xFE00 ≤ x.toNat ∧ x.toNat ≤ 0xFF7F))

/-- R55: the bus read by region; it is a total function of the state and the address. The storage of the four regions is the memory list, keyed by address (log 2). -/
def Obligations.BusReadResolves : Prop :=
  ∀ (s : State) (x : Addr),
    (0xE000 ≤ x.toNat → x.toNat ≤ 0xFDFF → memRead s x = memRead s (x - 0x2000)) ∧
    (x.toNat = 0xFFFF → memRead s x = s.bus.ie) ∧ (Unmapped x → memRead s x = 0xFF) ∧
    (x.toNat ≤ 0x9FFF ∨ (0xC000 ≤ x.toNat ∧ x.toNat ≤ 0xDFFF) ∨ (0xFF80 ≤ x.toNat ∧ x.toNat ≤ 0xFFFE) →
      memRead s x = s.bus.mem.read x.toNat)

/-- R56, with its frame: ROM rejects and nothing changes, unmapped addresses discard, and every other address stores the byte, seen through the echo too, with every other byte and register unchanged. -/
def Obligations.BusWriteResolves : Prop :=
  ∀ (s : State) (x : Addr) (v : Byte),
    (x.toNat ≤ 0x7FFF → memWrite x v s = .fault (.writeToReadOnlyRegion x s)) ∧
    (Unmapped x → memWrite x v s = .next s) ∧
    (0x7FFF < x.toNat → ¬ Unmapped x → s.bus.mem.wf = true →
      ∃ t, memWrite x v s = .next t ∧ t = { s with bus := t.bus } ∧ (x.toNat = 0xFFFF → t.bus.ie = v) ∧
        (∀ y, SameByte y x → memRead t y = v) ∧ ∀ y, ¬ SameByte y x → memRead t y = memRead s y)

/-- R59: write then read returns the byte, the echo range always reads as the mirrored range, unmapped addresses read 0xFF after any write. -/
def Obligations.EchoReadsBack : Prop :=
  (∀ (s : State) (x : Addr), 0xE000 ≤ x.toNat → x.toNat ≤ 0xFDFF → memRead s x = memRead s (x - 0x2000)) ∧
  (∀ (s t : State) (x : Addr) (v : Byte), s.bus.mem.wf = true → memWrite x v s = .next t →
    memRead t x = (if Unmapped x then 0xFF else v)) ∧
  (∀ (s : State) (x : Addr) (v : Byte), 0x7FFF < x.toNat → ∃ t, memWrite x v s = .next t)

/-- Derived from R53 and R61: two addresses that differ by one (modulo 65536) never reach the same byte. -/
def Obligations.NeighbourBytesNeverAlias : Prop :=
  ∀ (b : Bus) (x : Addr) (v : Byte),
    busRead (busStore b x v) (x + 1) = busRead b (x + 1) ∧ busRead (busStore b (x + 1) v) x = busRead b x

/-- R57: ROM rejects every bus write, no step changes a ROM byte, whether it completes or faults, and of the host actions only load_rom can. -/
def Obligations.RomIsImmutable : Prop :=
  (∀ (s : State) (x : Addr) (v : Byte), x.toNat ≤ 0x7FFF → memWrite x v s = .fault (.writeToReadOnlyRegion x s)) ∧
  (∀ (s t : State) (x : Addr), step s = .next t → x.toNat ≤ 0x7FFF → memRead t x = memRead s x) ∧
  (∀ (s : State) (f : Fault) (x : Addr), step s = .fault f → x.toNat ≤ 0x7FFF → memRead f.after x = memRead s x) ∧
  (∀ (act : HostAction) (s t : State) (x : Addr), hostAct act s = .next t → x.toNat ≤ 0x7FFF →
    memRead t x ≠ memRead s x → ∃ bytes, act = .loadRom bytes)

/-- R72: no cartridge RAM, OAM or I/O registers; those addresses read 0xFF and discard writes. -/
def Obligations.AbsentDevicesReadOpenBus : Prop :=
  ∀ (s : State) (x : Addr) (v : Byte),
    Unmapped x → memRead s x = 0xFF ∧ memWrite x v s = .next s

/-- R190: IE stores eight bits, reads and writes as a plain byte, is 0 after construction, and has no effect inside the block: a step that does not read or write the byte at 0xFFFF does the same whatever IE holds, and leaves it. -/
def Obligations.InterruptEnableIsInert : Prop :=
  State.reset.bus.ie = 0x00 ∧
  (∀ s : State, memRead s 0xFFFF = s.bus.ie) ∧
  (∀ (s : State) (v : Byte), memWrite 0xFFFF v s = .next { s with bus := { s.bus with ie := v } }) ∧
  (∀ (s : State) (v : Byte), ¬ StepTouches s 0xFFFF → step (withIe v s) = mapState (withIe v) (step s))

/-- R26: a pair read after a pair write returns the written value, AF with its low nibble cleared. -/
def Obligations.PairViews : Prop :=
  (∀ (s : State) (w : Word),
    (s.setPair .bc w).pair .bc = w ∧ (s.setPair .bc w).b = (w >>> 8).setWidth 8 ∧ (s.setPair .bc w).c = (w &&& 0xFF).setWidth 8 ∧
    (s.setPair .de w).pair .de = w ∧ (s.setPair .de w).d = (w >>> 8).setWidth 8 ∧ (s.setPair .de w).e = (w &&& 0xFF).setWidth 8 ∧
    (s.setPair .hl w).pair .hl = w ∧ (s.setPair .hl w).h = (w >>> 8).setWidth 8 ∧ (s.setPair .hl w).l = (w &&& 0xFF).setWidth 8 ∧
    (s.setPair .af w).pair .af = w &&& 0xFFF0) ∧
  (∀ (s : State) (a f : Byte), ((s.setReg .a a).setF f).pair .af = (a.setWidth 16 <<< 8) ||| (f &&& 0xF0).setWidth 16)

/-- R24: every write to F stores the value ANDed with 0xF0: direct, through AF, by a flag update, and by any instruction. -/
def Obligations.FlagWritesMask : Prop :=
  (∀ (s : State) (v : Byte), s.setF v = { s with f := v &&& 0xF0 }) ∧
  (∀ (s : State) (w : Word), (s.setPair .af w).f = (w &&& 0xF0).setWidth 8) ∧
  (∀ (s : State) (x : Flag) (q : Bool), (s.setFlag x q).f &&& 0x0F = 0) ∧
  (∀ (i : Instr) (s t : State), exec i s = .next t → t.f = s.f ∨ t.f &&& 0x0F = 0)

/-- R27, with its frame: a flag write changes only its bit, keeps the forced-zero nibble, and touches no other register. -/
def Obligations.FlagsAreIndependent : Prop :=
  ∀ (s : State) (x y : Flag) (q : Bool),
    (s.setFlag x q).flag y = (if y = x then q else s.flag y) ∧ (s.setFlag x q).f &&& 0x0F = 0 ∧
    s.setFlag x q = { s with f := (s.setFlag x q).f }

/-- Whole-machine rule behind the table of R28: an instruction other than INC, DEC, XOR and POP AF leaves F unchanged. -/
def Obligations.FlagsChangeOnlyByFlagWriters : Prop :=
  ∀ (i : Instr) (s t : State), exec i s = .next t → ¬ WritesFlags i → t.f = s.f

/-- Whole-machine frame: an instruction other than PUSH and CALL leaves every byte of memory, and IE, unchanged. -/
def Obligations.MemoryChangesOnlyByPushAndCall : Prop :=
  ∀ (i : Instr) (s t : State), exec i s = .next t → ¬ WritesMemory i →
    t.bus = s.bus ∧ ∀ x, memRead t x = memRead s x

/-- Whole-machine frame: SP moves only by PUSH, POP, CALL, RET and LD SP,nn; beyond the fetch PC moves only by JP, JR, CALL and RET. -/
def Obligations.StackPointerAndPcMovers : Prop :=
  ∀ (i : Instr) (s t : State), exec i s = .next t →
    (t.sp ≠ s.sp → WritesMemory i ∨ ReadsStack i ∨ ∃ nn, i = .ld_SP_nn nn) ∧ (t.pc ≠ s.pc → TransfersControl i)

/-- When a step succeeds, over all states: the opcode is admitted and, for the four PUSH and CALL, no stack byte lies in ROM. -/
def Obligations.StepCompletesExactly : Prop :=
  ∀ s : State, StepCompletes s ↔
    implementedOpcode (memRead s s.pc) = true ∧
    (memRead s s.pc ∈ [0xC5, 0xD5, 0xE5, 0xF5, 0xCD] → PushAllowed s.sp)

/-- The errors of a step, over all states, with their priority: the opcode first, then the low byte, then the high byte. No step is refused, and none raises RomTooLarge. The address named (low byte before high) and the state left (SP decremented, PC past the instruction) are the spec's own decisions D5 and D6, so marked in R186 and R182; a claim about them is unsafe where a build decides otherwise (log 6). -/
def Obligations.StepFaultsExactly : Prop :=
  (∀ (s : State) (f : Fault), step s = .fault f →
    (f = .unimplementedOpcode (memRead s s.pc) { s with pc := s.pc + 1 } ∧ implementedOpcode (memRead s s.pc) = false) ∨
    (∃ x t, f = .writeToReadOnlyRegion x t ∧ WritesMemory (fetchInstr s).1 ∧ x.toNat ≤ 0x7FFF ∧
      t.sp = s.sp - 2 ∧ t.pc = s.pc + BitVec.ofNat 16 (fetchInstr s).1.length ∧
      (x = s.sp - 2 ∨ (x = s.sp - 1 ∧ 0x7FFF < (s.sp - 2).toNat)))) ∧
  (∀ (s : State) (r : Refusal), step s ≠ .refused r)

/-- R184: an image over the capacity is rejected with its size and the capacity and nothing changed; no step raises it. -/
def Obligations.RomTooLargeIsAtomic : Prop :=
  (∀ (bytes : List Byte) (s : State), 32768 < bytes.length →
    loadRom bytes s = .fault (.romTooLarge bytes.length 32768 s)) ∧
  (∀ (s : State) (n k : Nat) (t : State), step s ≠ .fault (.romTooLarge n k t))

/-- R71, with its frame: byte i lands in ROM at address i; every byte of memory from the image's end on, and every register, keeps its value. -/
def Obligations.LoadRomCopies : Prop :=
  (∀ (bytes : List Byte) (s : State), 32768 < bytes.length →
    loadRom bytes s = .fault (.romTooLarge bytes.length 32768 s)) ∧
  (∀ (bytes : List Byte) (s : State), bytes.length ≤ 32768 → s.bus.mem.wf = true →
    ∃ t, loadRom bytes s = .next t ∧ t = { s with bus := t.bus } ∧ t.bus.ie = s.bus.ie ∧
      (∀ (k : Nat) (h : k < bytes.length), memRead t (BitVec.ofNat 16 k) = bytes[k]) ∧
      ∀ x : Addr, bytes.length ≤ x.toNat → memRead t x = memRead s x)

/-- The boot sequence of R213: construct, then load the parameter rom_image; the first step fetches image[0x0100]. -/
def Obligations.BootPlacesImage : Prop :=
  ∀ image : List Byte, image.length ≤ 32768 →
    ∃ t, boot image = .next t ∧ t = { State.reset with bus := t.bus } ∧ t.pc = 0x0100 ∧
      ∀ (k : Nat) (h : k < image.length), memRead t (BitVec.ofNat 16 k) = image[k]

/-- R226: the cycle cost a successful step reports, by opcode; a step that ends in an error reports 0, which is the spec's own decision ("A step that ends in an error reports 0 cycles [decision: see 92_eei_decisions.md D7]", log 7); the cost changes nothing else. -/
def Obligations.CycleCosts : Prop :=
  (∀ s t : State, step s = .next t →
    (memRead s s.pc = 0x00 → (cpuStep s).1 = 4) ∧
    (memRead s s.pc ∈ [0x06, 0x0E, 0x16, 0x1E, 0x26, 0x2E, 0x3E] → (cpuStep s).1 = 8) ∧
    (0x40 ≤ (memRead s s.pc).toNat → (memRead s s.pc).toNat ≤ 0x7F → (memRead s s.pc).toNat % 8 ≠ 6 →
      ¬ (0x70 ≤ (memRead s s.pc).toNat ∧ (memRead s s.pc).toNat ≤ 0x77) → (cpuStep s).1 = 4) ∧
    (memRead s s.pc ∈ [0x01, 0x11, 0x21, 0x31] → (cpuStep s).1 = 12) ∧
    (memRead s s.pc ∈ [0x04, 0x0C, 0x14, 0x1C, 0x24, 0x2C, 0x3C] → (cpuStep s).1 = 4) ∧
    (memRead s s.pc ∈ [0x05, 0x0D, 0x15, 0x1D, 0x25, 0x2D, 0x3D] → (cpuStep s).1 = 4) ∧
    (memRead s s.pc ∈ [0xA8, 0xA9, 0xAA, 0xAB, 0xAC, 0xAD, 0xAF] → (cpuStep s).1 = 4) ∧
    (memRead s s.pc = 0xC3 → (cpuStep s).1 = 16) ∧ (memRead s s.pc = 0x18 → (cpuStep s).1 = 12) ∧
    (memRead s s.pc = 0xCD → (cpuStep s).1 = 24) ∧ (memRead s s.pc = 0xC9 → (cpuStep s).1 = 16) ∧
    (memRead s s.pc ∈ [0xC5, 0xD5, 0xE5, 0xF5] → (cpuStep s).1 = 16) ∧
    (memRead s s.pc ∈ [0xC1, 0xD1, 0xE1, 0xF1] → (cpuStep s).1 = 12)) ∧
  (∀ (s : State) (f : Fault), step s = .fault f → (cpuStep s).1 = 0) ∧ (∀ s : State, (cpuStep s).2 = step s)

/-- From every state that meets it, a step, completed or faulted, keeps the invariant: the hard-wired nibble of F reads 0 (R22, R24), and memory is in canonical form, which is the model's own choice of representation (log 2), no rule of the spec. -/
def Obligations.StepKeepsInvariant : Prop :=
  (∀ s t : State, MachineInv s → step s = .next t → MachineInv t) ∧ (∀ (s : State) (f : Fault), MachineInv s → step s = .fault f → MachineInv f.after)

/-- The invariant holds along every history of steps and host actions (R216 admits any host action between steps). Two things in it are the model's own choices, no rules of the spec: the canonical-memory half of the invariant (log 2), and that a history goes on after a failed host action (log 10). -/
def Obligations.HistoryKeepsInvariant : Prop :=
  ∀ (evs : List Event) (s t : State), MachineInv s → runEvents evs s = .next t → MachineInv t

/-- RET undoes CALL: right after a completed CALL whose stack bytes are mapped, RET goes back to the return address with SP restored. -/
def Obligations.CallThenReturn : Prop :=
  ∀ (nn : Word) (s t : State), s.bus.mem.wf = true → ¬ Unmapped (s.sp - 2) → ¬ Unmapped (s.sp - 1) →
    exec (.call_nn nn) s = .next t → exec .ret t = .next { t with pc := s.pc, sp := s.sp }

/-- POP undoes PUSH on mapped stack bytes: whichever pair is pushed, a POP into any pair gives it the pushed bytes, into AF with the low byte masked, and SP as before the push; from a state that meets the invariant, a POP into the same pair gives every register back. The premise of canonical memory is the model's own (log 2). -/
def Obligations.PushThenPop : Prop :=
  (∀ (p : Pair) (s t : State), s.bus.mem.wf = true → ¬ Unmapped (s.sp - 2) → ¬ Unmapped (s.sp - 1) →
    exec (pushOf p) s = .next t →
      exec .pop_BC t = .next { t with sp := s.sp, b := highOf p s, c := lowOf p s } ∧
      exec .pop_DE t = .next { t with sp := s.sp, d := highOf p s, e := lowOf p s } ∧
      exec .pop_HL t = .next { t with sp := s.sp, h := highOf p s, l := lowOf p s } ∧
      exec .pop_AF t = .next { t with sp := s.sp, a := highOf p s, f := lowOf p s &&& 0xF0 }) ∧
  (∀ (p : Pair) (s t : State), MachineInv s → ¬ Unmapped (s.sp - 2) → ¬ Unmapped (s.sp - 1) →
    exec (pushOf p) s = .next t → exec (popOf p) t = .next { s with bus := t.bus })

/-- Derived in R160: a stack at unmapped addresses silently discards pushes, those of CALL too, and pops 0xFFFF; into AF the low nibble is masked. -/
def Obligations.UnmappedStackDiscards : Prop :=
  (∀ s : State, Unmapped (s.sp - 2) → Unmapped (s.sp - 1) →
    (∀ p : Pair, exec (pushOf p) s = .next { s with sp := s.sp - 2 }) ∧
    ∀ nn : Word, exec (.call_nn nn) s = .next { s with sp := s.sp - 2, pc := nn }) ∧
  (∀ s : State, Unmapped s.sp → Unmapped (s.sp + 1) →
    exec .pop_BC s = .next { s with sp := s.sp + 2, b := 0xFF, c := 0xFF } ∧
    exec .pop_DE s = .next { s with sp := s.sp + 2, d := 0xFF, e := 0xFF } ∧
    exec .pop_HL s = .next { s with sp := s.sp + 2, h := 0xFF, l := 0xFF } ∧
    exec .pop_AF s = .next { s with sp := s.sp + 2, a := 0xFF, f := 0xF0 } ∧
    exec .ret s = .next { s with sp := s.sp + 2, pc := 0xFFFF })

/-- A step that returns an error is the end of a history and of a run, with that error, and a run that ends in a state has met its own end condition (R181, R217). That the faulted state is terminal is the spec's own decision ("the model gives no further step from it [decision: see 92_eei_decisions.md D16]", R181); the end condition and the bound as arguments are the model's form (log 11). -/
def Obligations.StepErrorEndsHistory : Prop :=
  (∀ (evs : List Event) (s : State) (f : Fault), step s = .fault f → runEvents (.step :: evs) s = .fault f) ∧
  (∀ (endOfRun : State → Bool) (bound : Nat) (s : State) (f : Fault), endOfRun s = false → step s = .fault f →
    runUntil endOfRun (bound + 1) s = some (.fault f)) ∧
  (∀ (endOfRun : State → Bool) (bound : Nat) (s t : State), runUntil endOfRun bound s = some (.next t) → endOfRun t = true)

/-- The model's own placing of one instruction (log 8): the very next step fetches and runs exactly it. A statement about the interface, not a rule of the spec. -/
def Obligations.PlacedInstructionRuns : Prop :=
  ∀ (s : State) (nbits w : Nat) (i : Instr), s.bus.mem.wf = true → decodeTableWord nbits w = some i →
    step (s.withFetchWord nbits w) =
      exec i { s.withFetchWord nbits w with pc := (s.withFetchWord nbits w).pc + BitVec.ofNat 16 i.length }
end

