-- ==== Sys2Proof/Laws/Memory.lean ====
section
/-!
SUPPORT. The laws of memory as a canonical list: read after write, and that every memory operation keeps the form.
-/

namespace Sys2Proof.Machine

@[simp] theorem Memory.read_nil (k : Nat) : Memory.read [] k = Config.zeroFill := rfl

theorem Memory.read_put (k k' : Nat) (v : Byte) (m : Memory) :
    (Memory.put k v m).read k' = if v ≠ Config.zeroFill ∧ k' = k then v else m.read k' := by
  unfold Memory.put
  by_cases hv : v = Config.zeroFill <;> simp [hv, Memory.read]

/-- A cell below every key is unlisted. -/
theorem Memory.read_below {m : Memory} {lo k : Nat} (hm : Memory.wfFrom lo m = true) (hk : k < lo) :
    m.read k = Config.zeroFill := by
  induction m generalizing lo with
  | nil => rfl
  | cons c rest ih =>
    obtain ⟨k', v⟩ := c
    simp only [Memory.wfFrom, Bool.and_eq_true, decide_eq_true_eq] at hm
    obtain ⟨⟨⟨hlo, -⟩, -⟩, hrest⟩ := hm
    rw [Memory.read, if_neg (by omega), ih hrest (by omega)]

/-- A lower bound may be lowered. -/
theorem Memory.wfFrom_mono {m : Memory} {lo lo' : Nat} (hle : lo' ≤ lo) (hm : Memory.wfFrom lo m = true) :
    Memory.wfFrom lo' m = true := by
  cases m with
  | nil => rfl
  | cons c rest =>
    obtain ⟨k', v⟩ := c
    simp only [Memory.wfFrom, Bool.and_eq_true, decide_eq_true_eq] at hm ⊢
    exact ⟨⟨⟨by omega, hm.1.1.2⟩, hm.1.2⟩, hm.2⟩

theorem Memory.wfFrom_put {m : Memory} {lo k : Nat} {v : Byte} (hlo : lo ≤ k) (hk : isCell k = true)
    (hm : Memory.wfFrom (k + 1) m = true) : Memory.wfFrom lo (Memory.put k v m) = true := by
  unfold Memory.put
  split
  · exact Memory.wfFrom_mono (by omega) hm
  · rename_i hv
    simp [Memory.wfFrom, hlo, hk, hv, hm]

theorem Memory.wfFrom_write {m : Memory} {lo k : Nat} {v : Byte} (hlo : lo ≤ k) (hk : isCell k = true)
    (hm : Memory.wfFrom lo m = true) : Memory.wfFrom lo (m.write k v) = true := by
  induction m generalizing lo with
  | nil => exact Memory.wfFrom_put hlo hk rfl
  | cons c rest ih =>
    obtain ⟨k', v'⟩ := c
    have hm' := hm
    simp only [Memory.wfFrom, Bool.and_eq_true, decide_eq_true_eq] at hm
    obtain ⟨⟨⟨hlo', hk'⟩, hv'⟩, hrest⟩ := hm
    rw [Memory.write]
    split
    · rename_i hlt
      refine Memory.wfFrom_put hlo hk ?_
      simp only [Memory.wfFrom, Bool.and_eq_true, decide_eq_true_eq]
      exact ⟨⟨⟨by omega, hk'⟩, hv'⟩, hrest⟩
    · split
      · rename_i heq
        subst heq
        exact Memory.wfFrom_put hlo hk hrest
      · simp only [Memory.wfFrom, Bool.and_eq_true, decide_eq_true_eq]
        exact ⟨⟨⟨hlo', hk'⟩, hv'⟩, ih (by omega) hrest⟩

/-- Storing a byte in a storage cell keeps the canonical form. -/
theorem Memory.wf_write {m : Memory} {k : Nat} {v : Byte} (hk : isCell k = true) (hm : m.wf = true) :
    (m.write k v).wf = true :=
  Memory.wfFrom_write (Nat.zero_le k) hk hm

/-- Other cells keep their byte, in every memory. -/
theorem Memory.read_write_other {m : Memory} {k k' : Nat} {v : Byte} (h : k' ≠ k) :
    (m.write k v).read k' = m.read k' := by
  induction m with
  | nil => simp [Memory.write, Memory.read_put, h]
  | cons c rest ih =>
    obtain ⟨k₁, v₁⟩ := c
    rw [Memory.write]
    split
    · simp [Memory.read_put, h]
    · split
      · rename_i heq
        simp [Memory.read_put, Memory.read, h, ← heq]
      · simp [Memory.read, ih]

theorem Memory.read_write_same_from {m : Memory} {lo k : Nat} {v : Byte} (hm : Memory.wfFrom lo m = true) :
    (m.write k v).read k = v := by
  induction m generalizing lo with
  | nil => by_cases hv : v = Config.zeroFill <;> simp [Memory.write, Memory.read_put, hv]
  | cons c rest ih =>
    obtain ⟨k₁, v₁⟩ := c
    have hrest : Memory.wfFrom (k₁ + 1) rest = true := by
      simp only [Memory.wfFrom, Bool.and_eq_true] at hm
      exact hm.2
    rw [Memory.write]
    split
    · rename_i hlt
      by_cases hv : v = Config.zeroFill
      · rw [Memory.read_put, if_neg (by simp [hv]), hv, Memory.read, if_neg (by omega)]
        exact Memory.read_below hrest (by omega)
      · simp [Memory.read_put, hv]
    · split
      · rename_i heq
        by_cases hv : v = Config.zeroFill
        · rw [Memory.read_put, if_neg (by simp [hv]), hv]
          exact Memory.read_below hrest (by omega)
        · simp [Memory.read_put, hv]
      · rename_i hne
        rw [Memory.read, if_neg hne]
        exact ih hrest

/-- A cell reads as last written, in a canonical memory (20_memory.md R59). -/
theorem Memory.read_write_same {m : Memory} {k : Nat} {v : Byte} (hm : m.wf = true) : (m.write k v).read k = v :=
  Memory.read_write_same_from hm

theorem Memory.wf_load {m : Memory} {k : Nat} {vs : List Byte} (hk : ∀ j, k ≤ j → j < k + vs.length → isCell j = true)
    (hm : m.wf = true) : (m.load k vs).wf = true := by
  induction vs generalizing m k with
  | nil => exact hm
  | cons v vs ih =>
    rw [Memory.load]
    refine ih (fun j h₁ h₂ => hk j (by omega) (by simp; omega)) (Memory.wf_write (hk k (by omega) (by simp)) hm)

/-- What a cell holds after consecutive bytes are stored from `k` on. -/
theorem Memory.read_load {m : Memory} {k : Nat} {vs : List Byte} (hk : ∀ j, k ≤ j → j < k + vs.length → isCell j = true)
    (hm : m.wf = true) (j : Nat) :
    (m.load k vs).read j = if h : k ≤ j ∧ j < k + vs.length then vs[j - k]'(by omega) else m.read j := by
  induction vs generalizing m k with
  | nil => simp [Memory.load]
  | cons v vs ih =>
    rw [Memory.load, ih (fun i h₁ h₂ => hk i (by omega) (by simp; omega)) (Memory.wf_write (hk k (by omega) (by simp)) hm)]
    by_cases hj : j = k
    · subst hj
      simp [Memory.read_write_same hm]
    · rw [Memory.read_write_other hj]
      by_cases hin : k + 1 ≤ j ∧ j < k + 1 + vs.length
      · have hin' : k ≤ j ∧ j < k + (v :: vs).length := by simp; omega
        obtain ⟨i, rfl⟩ : ∃ i, j = k + 1 + i := ⟨j - (k + 1), by omega⟩
        have e : k + 1 + i - k = i + 1 := by omega
        rw [dif_pos hin, dif_pos hin']
        simp [e]
      · have hin' : ¬ (k ≤ j ∧ j < k + (v :: vs).length) := by simp; omega
        rw [dif_neg hin, dif_neg hin']

/-- Equal memories are equal data: two canonical memories that agree on every cell are one list. -/
theorem Memory.wfFrom_ext {m m' : Memory} {lo : Nat} (hm : Memory.wfFrom lo m = true) (hm' : Memory.wfFrom lo m' = true)
    (h : ∀ k, m.read k = m'.read k) : m = m' := by
  induction m generalizing m' lo with
  | nil =>
    cases m' with
    | nil => rfl
    | cons c rest =>
      obtain ⟨k, v⟩ := c
      have hk := h k
      simp only [Memory.wfFrom, Bool.and_eq_true, bne_iff_ne] at hm'
      simp only [Memory.read, if_pos] at hk
      exact absurd hk.symm hm'.1.2
  | cons c rest ih =>
    obtain ⟨k, v⟩ := c
    cases m' with
    | nil =>
      have hk := h k
      simp only [Memory.wfFrom, Bool.and_eq_true, bne_iff_ne] at hm
      simp only [Memory.read, if_pos] at hk
      exact absurd hk hm.1.2
    | cons c' rest' =>
      obtain ⟨k', v'⟩ := c'
      simp only [Memory.wfFrom, Bool.and_eq_true, bne_iff_ne, decide_eq_true_eq] at hm hm'
      obtain ⟨⟨⟨hlo, -⟩, hv⟩, hrest⟩ := hm
      obtain ⟨⟨⟨hlo', -⟩, hv'⟩, hrest'⟩ := hm'
      have hkk : k = k' := by
        rcases Nat.lt_trichotomy k k' with hlt | heq | hgt
        · have := h k
          rw [Memory.read, if_pos rfl, Memory.read, if_neg (by omega), Memory.read_below hrest' (by omega)] at this
          exact absurd this hv
        · exact heq
        · have := h k'
          rw [Memory.read, if_neg (by omega), Memory.read_below hrest (by omega), Memory.read, if_pos rfl] at this
          exact absurd this.symm hv'
      subst hkk
      have hvv : v = v' := by simpa [Memory.read] using h k
      subst hvv
      congr 1
      refine ih hrest hrest' fun j => ?_
      by_cases hj : j = k
      · rw [hj, Memory.read_below hrest (by omega), Memory.read_below hrest' (by omega)]
      · simpa [Memory.read, hj] using h j

end Sys2Proof.Machine
end

