-- ==== Sys2Proof/Laws/State.lean ====
section
/-!
SUPPORT. One lemma per field per update of the state, true by rfl (by cases on the register or pair where one is named),
and the read-after-write laws of registers, pairs and flags. No later proof unfolds an update.
-/

namespace Sys2Proof.Machine

variable (s : State) (v : Byte) (w : Word) (b : Bus) (r : Reg) (p : Pair) (x : Flag) (q : Bool)

@[simp] theorem State.setF_a : (s.setF v).a = s.a := rfl
@[simp] theorem State.setF_f : (s.setF v).f = v &&& 0xF0 := rfl
@[simp] theorem State.setF_b : (s.setF v).b = s.b := rfl
@[simp] theorem State.setF_c : (s.setF v).c = s.c := rfl
@[simp] theorem State.setF_d : (s.setF v).d = s.d := rfl
@[simp] theorem State.setF_e : (s.setF v).e = s.e := rfl
@[simp] theorem State.setF_h : (s.setF v).h = s.h := rfl
@[simp] theorem State.setF_l : (s.setF v).l = s.l := rfl
@[simp] theorem State.setF_sp : (s.setF v).sp = s.sp := rfl
@[simp] theorem State.setF_pc : (s.setF v).pc = s.pc := rfl
@[simp] theorem State.setF_bus : (s.setF v).bus = s.bus := rfl

@[simp] theorem State.setSp_a : (s.setSp w).a = s.a := rfl
@[simp] theorem State.setSp_f : (s.setSp w).f = s.f := rfl
@[simp] theorem State.setSp_b : (s.setSp w).b = s.b := rfl
@[simp] theorem State.setSp_c : (s.setSp w).c = s.c := rfl
@[simp] theorem State.setSp_d : (s.setSp w).d = s.d := rfl
@[simp] theorem State.setSp_e : (s.setSp w).e = s.e := rfl
@[simp] theorem State.setSp_h : (s.setSp w).h = s.h := rfl
@[simp] theorem State.setSp_l : (s.setSp w).l = s.l := rfl
@[simp] theorem State.setSp_sp : (s.setSp w).sp = w := rfl
@[simp] theorem State.setSp_pc : (s.setSp w).pc = s.pc := rfl
@[simp] theorem State.setSp_bus : (s.setSp w).bus = s.bus := rfl

@[simp] theorem State.setPc_a : (s.setPc w).a = s.a := rfl
@[simp] theorem State.setPc_f : (s.setPc w).f = s.f := rfl
@[simp] theorem State.setPc_b : (s.setPc w).b = s.b := rfl
@[simp] theorem State.setPc_c : (s.setPc w).c = s.c := rfl
@[simp] theorem State.setPc_d : (s.setPc w).d = s.d := rfl
@[simp] theorem State.setPc_e : (s.setPc w).e = s.e := rfl
@[simp] theorem State.setPc_h : (s.setPc w).h = s.h := rfl
@[simp] theorem State.setPc_l : (s.setPc w).l = s.l := rfl
@[simp] theorem State.setPc_sp : (s.setPc w).sp = s.sp := rfl
@[simp] theorem State.setPc_pc : (s.setPc w).pc = w := rfl
@[simp] theorem State.setPc_bus : (s.setPc w).bus = s.bus := rfl

@[simp] theorem State.setBus_a : (s.setBus b).a = s.a := rfl
@[simp] theorem State.setBus_f : (s.setBus b).f = s.f := rfl
@[simp] theorem State.setBus_b : (s.setBus b).b = s.b := rfl
@[simp] theorem State.setBus_c : (s.setBus b).c = s.c := rfl
@[simp] theorem State.setBus_d : (s.setBus b).d = s.d := rfl
@[simp] theorem State.setBus_e : (s.setBus b).e = s.e := rfl
@[simp] theorem State.setBus_h : (s.setBus b).h = s.h := rfl
@[simp] theorem State.setBus_l : (s.setBus b).l = s.l := rfl
@[simp] theorem State.setBus_sp : (s.setBus b).sp = s.sp := rfl
@[simp] theorem State.setBus_pc : (s.setBus b).pc = s.pc := rfl
@[simp] theorem State.setBus_bus : (s.setBus b).bus = b := rfl

@[simp] theorem State.setReg_f : (s.setReg r v).f = s.f := by cases r <;> rfl
@[simp] theorem State.setReg_sp : (s.setReg r v).sp = s.sp := by cases r <;> rfl
@[simp] theorem State.setReg_pc : (s.setReg r v).pc = s.pc := by cases r <;> rfl
@[simp] theorem State.setReg_bus : (s.setReg r v).bus = s.bus := by cases r <;> rfl
@[simp] theorem State.setPair_sp : (s.setPair p w).sp = s.sp := by cases p <;> rfl
@[simp] theorem State.setPair_pc : (s.setPair p w).pc = s.pc := by cases p <;> rfl
@[simp] theorem State.setPair_bus : (s.setPair p w).bus = s.bus := by cases p <;> rfl
@[simp] theorem State.setFlag_a : (s.setFlag x q).a = s.a := rfl
@[simp] theorem State.setFlag_b : (s.setFlag x q).b = s.b := rfl
@[simp] theorem State.setFlag_c : (s.setFlag x q).c = s.c := rfl
@[simp] theorem State.setFlag_d : (s.setFlag x q).d = s.d := rfl
@[simp] theorem State.setFlag_e : (s.setFlag x q).e = s.e := rfl
@[simp] theorem State.setFlag_h : (s.setFlag x q).h = s.h := rfl
@[simp] theorem State.setFlag_l : (s.setFlag x q).l = s.l := rfl
@[simp] theorem State.setFlag_sp : (s.setFlag x q).sp = s.sp := rfl
@[simp] theorem State.setFlag_pc : (s.setFlag x q).pc = s.pc := rfl
@[simp] theorem State.setFlag_bus : (s.setFlag x q).bus = s.bus := rfl

@[simp] theorem State.reg_setF : (s.setF v).reg r = s.reg r := by cases r <;> rfl
@[simp] theorem State.reg_setSp : (s.setSp w).reg r = s.reg r := by cases r <;> rfl
@[simp] theorem State.reg_setPc : (s.setPc w).reg r = s.reg r := by cases r <;> rfl
@[simp] theorem State.reg_setBus : (s.setBus b).reg r = s.reg r := by cases r <;> rfl
@[simp] theorem State.reg_setFlag : (s.setFlag x q).reg r = s.reg r := by cases r <;> rfl
@[simp] theorem State.pair_setSp : (s.setSp w).pair p = s.pair p := by cases p <;> rfl
@[simp] theorem State.pair_setPc : (s.setPc w).pair p = s.pair p := by cases p <;> rfl
@[simp] theorem State.pair_setBus : (s.setBus b).pair p = s.pair p := by cases p <;> rfl

/-- A register reads as last written; the others keep their value (10_state.md R22). -/
theorem State.reg_setReg (r' : Reg) : (s.setReg r v).reg r' = if r' = r then v else s.reg r' := by
  cases r <;> cases r' <;> rfl

@[simp] theorem State.reg_setReg_same : (s.setReg r v).reg r = v := by cases r <;> rfl

/-- Writing a general register touches no other field. -/
theorem State.setReg_eq : s.setReg r v =
    { s with a := (s.setReg r v).a, b := (s.setReg r v).b, c := (s.setReg r v).c, d := (s.setReg r v).d,
             e := (s.setReg r v).e, h := (s.setReg r v).h, l := (s.setReg r v).l } := by
  cases r <;> rfl

/-- The low byte of a concatenation (00_scope.md R10). -/
@[simp] theorem loByte_concat (hi lo : Byte) : loByte (concat hi lo) = lo := by
  ext i hi'
  have h : ¬ 8 ≤ i := by omega
  have h' : i < 16 := by omega
  simp [loByte, concat, hi', h', BitVec.getLsbD_eq_getElem]

/-- The high byte of a concatenation (00_scope.md R10). -/
@[simp] theorem hiByte_concat (hi lo : Byte) : hiByte (concat hi lo) = hi := by
  ext i hi'
  have h : 8 + i < 16 := by omega
  simp [hiByte, concat, h, BitVec.getLsbD_eq_getElem, hi']

/-- A word is its two bytes (00_scope.md R9). -/
@[simp] theorem concat_hiByte_loByte : concat (hiByte w) (loByte w) = w := by
  ext i hi'
  by_cases h : i < 8
  · simp [loByte, hiByte, concat, h, BitVec.getLsbD_eq_getElem, hi']
  · have e : 8 + (i - 8) = i := by omega
    have h' : i - 8 < 8 := by omega
    simp [loByte, hiByte, concat, h, h', e, BitVec.getLsbD_eq_getElem, hi']

@[simp] theorem State.setPair_bc_concat (s : State) (hi lo : Byte) :
    s.setPair .bc (concat hi lo) = { s with b := hi, c := lo } := by
  simp only [State.setPair, State.setReg, hiByte_concat, loByte_concat]
@[simp] theorem State.setPair_de_concat (s : State) (hi lo : Byte) :
    s.setPair .de (concat hi lo) = { s with d := hi, e := lo } := by
  simp only [State.setPair, State.setReg, hiByte_concat, loByte_concat]
@[simp] theorem State.setPair_hl_concat (s : State) (hi lo : Byte) :
    s.setPair .hl (concat hi lo) = { s with h := hi, l := lo } := by
  simp only [State.setPair, State.setReg, hiByte_concat, loByte_concat]
@[simp] theorem State.setPair_af_concat (s : State) (hi lo : Byte) :
    s.setPair .af (concat hi lo) = { s with a := hi, f := lo &&& 0xF0 } := by
  simp only [State.setPair, State.setReg, State.setF, hiByte_concat, loByte_concat]

/-- The number a concatenation stands for. -/
theorem concat_toNat (hi lo : Byte) : (concat hi lo).toNat = 256 * hi.toNat + lo.toNat := by
  have h₁ := hi.isLt
  have h₂ := lo.isLt
  simp only [concat, BitVec.toNat_or, BitVec.toNat_shiftLeft, BitVec.toNat_setWidth]
  rw [Nat.mod_eq_of_lt (by omega : hi.toNat < 2 ^ 16), Nat.mod_eq_of_lt (by omega : lo.toNat < 2 ^ 16),
    Nat.shiftLeft_eq, Nat.mod_eq_of_lt (by omega : hi.toNat * 2 ^ 8 < 2 ^ 16), Nat.mul_comm,
    ← Nat.two_pow_add_eq_or_of_lt (by omega)]
  
end Sys2Proof.Machine
end

