-- ==== Sys2Proof/Laws/Bus.lean ====
section
/-!
SUPPORT. The laws of the address map, of bus reads and writes, and of the stack operations: each says once everything its
operation can do.
-/

namespace Sys2Proof.Machine

/-- The cell behind a storage region's address is a storage cell (20_memory.md R51, R53). -/
theorem isCell_cellOf {x : Addr} (h : region x ≠ .ie) (h' : region x ≠ .unmapped) : isCell (cellOf x) = true := by
  have hx := x.isLt
  simp only [isCell, cellOf, region] at *
  split_ifs at * <;> simp_all <;> omega

/-- Storing through the bus keeps the canonical form. -/
theorem wf_busStore {b : Bus} {x : Addr} {v : Byte} (hb : b.mem.wf = true) : (busStore b x v).mem.wf = true := by
  unfold busStore
  cases hr : region x <;>
    first
    | exact hb
    | exact Memory.wf_write (isCell_cellOf (by simp [hr]) (by simp [hr])) hb

theorem region_rom_iff {x : Addr} : region x = .rom ↔ x.toNat ≤ 0x7FFF := by
  simp only [region]
  split_ifs <;> simp_all

theorem region_unmapped_iff {x : Addr} : region x = .unmapped ↔ Unmapped x := by
  have hx := x.isLt
  simp only [region, Unmapped]
  split_ifs <;> simp_all <;> omega

theorem region_ie_iff {x : Addr} : region x = .ie ↔ x.toNat = 0xFFFF := by
  have hx := x.isLt
  simp only [region]
  split_ifs <;> simp_all <;> omega

theorem cellOf_eq (x : Addr) :
    cellOf x = if 0xE000 ≤ x.toNat ∧ x.toNat ≤ 0xFDFF then x.toNat - 0x2000 else x.toNat := by
  simp only [cellOf, region]
  split_ifs <;> simp only [] <;> omega

/-- Distinct bytes have distinct cells: the only aliasing is the echo's (20_memory.md R53, R61). -/
theorem cellOf_ne {x y : Addr} (hxy : ¬ SameByte x y) :
    cellOf x ≠ cellOf y := by
  have h₁ := x.isLt
  have h₂ := y.isLt
  have hne : x.toNat ≠ y.toNat := fun h => hxy (.inl (BitVec.eq_of_toNat_eq h))
  rw [cellOf_eq, cellOf_eq]
  simp only [SameByte, not_or, not_and] at hxy
  obtain ⟨-, hxe, hye⟩ := hxy
  split_ifs <;> omega

theorem busRead_unmapped {b : Bus} {x : Addr} (h : region x = .unmapped) : busRead b x = Config.openBus := by
  simp [busRead, h]

/-- A write to an unmapped address is discarded (20_memory.md R56). -/
theorem busStore_unmapped {b : Bus} {x : Addr} {v : Byte} (h : region x = .unmapped) : busStore b x v = b := by
  simp only [busStore, h]

/-- A byte stored in a mapped address reads back (20_memory.md R59). -/
theorem busRead_busStore_same {b : Bus} {x : Addr} {v : Byte} (hb : b.mem.wf = true) (hx : region x ≠ .unmapped) :
    busRead (busStore b x v) x = v := by
  unfold busRead busStore
  cases hr : region x <;> first | exact Memory.read_write_same hb | rfl | exact absurd hr hx

/-- Every other byte keeps its value (20_memory.md R58, R61). -/
theorem busRead_busStore_other {b : Bus} {x y : Addr} {v : Byte} (hxy : ¬ SameByte y x) :
    busRead (busStore b x v) y = busRead b y := by
  have hne : y ≠ x := fun h => hxy (.inl h)
  by_cases hux : region x = .unmapped
  · simp [busStore, hux]
  by_cases huy : region y = .unmapped
  · rw [busRead_unmapped huy, busRead_unmapped huy]
  have hc := cellOf_ne hxy
  have hie : region x = .ie → region y = .ie → False := fun h₁ h₂ =>
    hne (BitVec.eq_of_toNat_eq ((region_ie_iff.mp h₂).trans (region_ie_iff.mp h₁).symm))
  cases hx : region x <;> cases hy : region y <;> simp_all [busRead, busStore, Memory.read_write_other]

/-- Two addresses of the same byte read the same (20_memory.md R53, R59). -/
theorem busRead_congr {x y : Addr} (h : SameByte x y) (b : Bus) : busRead b x = busRead b y := by
  rcases h with rfl | h | h
  · rfl
  all_goals
    have hx := x.isLt
    have hy := y.isLt
    have hc : cellOf x = cellOf y := by rw [cellOf_eq, cellOf_eq]; split_ifs <;> omega
    have h₁ : region x = .echo ∨ region x = .wram := by simp only [region]; split_ifs <;> first | omega | simp
    have h₂ : region y = .echo ∨ region y = .wram := by simp only [region]; split_ifs <;> first | omega | simp
    rcases h₁ with h₁ | h₁ <;> rcases h₂ with h₂ | h₂ <;> simp [busRead, hc, h₁, h₂]

/-- Two addresses of the same byte are mapped or unmapped together. -/
theorem unmapped_congr {x y : Addr} (h : SameByte x y) : Unmapped x ↔ Unmapped y := by
  have hx := x.isLt
  have hy := y.isLt
  simp only [SameByte, ← BitVec.toNat_inj, Unmapped] at *
  omega

/-- What a bus reads after a byte is stored, at every address that reaches the byte (20_memory.md R56, R59). -/
theorem busRead_busStore_sameByte {b : Bus} {x y : Addr} {v : Byte} (hb : b.mem.wf = true) (h : SameByte y x) :
    busRead (busStore b x v) y = if Unmapped y then Config.openBus else v := by
  split_ifs with hu
  · exact busRead_unmapped (region_unmapped_iff.mpr hu)
  · rw [busRead_congr h, busRead_busStore_same hb]
    rwa [Ne, region_unmapped_iff, ← unmapped_congr h]

/-- A bus write outside ROM succeeds and stores; into ROM it raises and changes nothing (20_memory.md R56, R57). -/
theorem memWrite_eq (x : Addr) (v : Byte) (s : State) :
    memWrite x v s =
      if x.toNat ≤ 0x7FFF then .fault (.writeToReadOnlyRegion x s) else .next (s.setBus (busStore s.bus x v)) := by
  split
  · rename_i h
    simp [memWrite, region_rom_iff.mpr h, raiseWriteToReadOnly]
  · rename_i h
    have hr : region x ≠ .rom := fun h' => h (region_rom_iff.mp h')
    unfold memWrite
    cases hx : region x <;> first | rfl | exact absurd hx hr

@[simp] theorem andThen_next (s : State) (k : State → Result) : andThen (.next s) k = k s := rfl
@[simp] theorem andThen_fault (e : Fault) (k : State → Result) : andThen (.fault e) k = .fault e := rfl
@[simp] theorem andThen_refused (e : Refusal) (k : State → Result) : andThen (.refused e) k = .refused e := rfl

/-- The bus after both bytes of a push are stored. -/
def pushedBus (w : Word) (s : State) : Bus :=
  busStore (busStore s.bus (s.sp - 2) (loByte w)) (s.sp - 1) (hiByte w)

theorem sp_sub_two_add_one (x : Word) : x - 2 + 1 = x - 1 := by bv_omega

/-- Everything a push can do: it stores both bytes, or stops at the first byte that falls in ROM, SP already decremented
(43_stack.md R161, 60_exceptions.md R182, R186). -/
theorem pushWord_eq (w : Word) (s : State) :
    pushWord w s =
      if (s.sp - 2).toNat ≤ 0x7FFF then .fault (.writeToReadOnlyRegion (s.sp - 2) (s.setSp (s.sp - 2)))
      else if (s.sp - 1).toNat ≤ 0x7FFF then
        .fault (.writeToReadOnlyRegion (s.sp - 1)
          ((s.setSp (s.sp - 2)).setBus (busStore s.bus (s.sp - 2) (loByte w))))
      else .next ((s.setSp (s.sp - 2)).setBus (pushedBus w s)) := by
  simp only [pushWord, memWrite_eq, State.setSp_sp]
  split
  · rfl
  · simp only [andThen_next, State.setBus_sp, State.setSp_sp, sp_sub_two_add_one]
    split <;> rfl

/-- A push that completes (`PushAllowed`) gives this state. -/
theorem pushWord_allowed {w : Word} {s : State} (h : PushAllowed s.sp) :
    pushWord w s = .next ((s.setSp (s.sp - 2)).setBus (pushedBus w s)) := by
  obtain ⟨h₁, h₂⟩ := h
  rw [pushWord_eq, if_neg (by omega), if_neg (by omega)]

/-- Inversion of a push: if it answers next, it was allowed and the state is the one above. -/
theorem pushWord_next {w : Word} {s t : State} (h : pushWord w s = .next t) :
    PushAllowed s.sp ∧ t = (s.setSp (s.sp - 2)).setBus (pushedBus w s) := by
  rw [pushWord_eq] at h
  split_ifs at h with h₁ h₂
  exact ⟨⟨by omega, by omega⟩, (Host.Outcome.next.inj h).symm⟩

/-- Inversion of a failing push (60_exceptions.md R182, R186). -/
theorem pushWord_fault {w : Word} {s : State} {f : Fault} (h : pushWord w s = .fault f) :
    ((s.sp - 2).toNat ≤ 0x7FFF ∧ f = .writeToReadOnlyRegion (s.sp - 2) (s.setSp (s.sp - 2))) ∨
    (0x7FFF < (s.sp - 2).toNat ∧ (s.sp - 1).toNat ≤ 0x7FFF ∧
      f = .writeToReadOnlyRegion (s.sp - 1) ((s.setSp (s.sp - 2)).setBus (busStore s.bus (s.sp - 2) (loByte w)))) := by
  rw [pushWord_eq] at h
  split_ifs at h with h₁ h₂
  · exact .inl ⟨h₁, (Host.Outcome.fault.inj h).symm⟩
  · exact .inr ⟨by omega, h₂, (Host.Outcome.fault.inj h).symm⟩

theorem wf_pushedBus {w : Word} {s : State} (h : s.bus.mem.wf = true) : (pushedBus w s).mem.wf = true :=
  wf_busStore (wf_busStore h)

/-- The two bytes of a push never share a cell (20_memory.md R61). -/
theorem sameByte_sp_disjoint {sp x : Word} (h : SameByte x (sp - 2)) : ¬ SameByte x (sp - 1) := by
  intro h'
  have hl := sp.isLt
  have e₁ : (sp - 2).toNat = (sp.toNat + 65534) % 65536 := by rw [BitVec.toNat_sub]; simp; omega
  have e₂ : (sp - 1).toNat = (sp.toNat + 65535) % 65536 := by rw [BitVec.toNat_sub]; simp; omega
  simp only [SameByte, ← BitVec.toNat_inj, e₁, e₂] at h h'
  omega

/-- Memory after a completed push: both bytes under every address that reaches them, and every other byte as before. -/
theorem pushedBytes_pushedBus {w : Word} {s t : State} (ht : t.bus = pushedBus w s) :
    PushedBytes s t (loByte w) (hiByte w) := by
  have hr (x : Addr) : memRead t x = busRead (pushedBus w s) x := by rw [memRead, ht]
  refine ⟨fun hwf => ⟨fun x hx => ?_, fun x hx => ?_⟩, fun x h₁ h₂ => ?_⟩
  · rw [hr, pushedBus, busRead_busStore_other (sameByte_sp_disjoint hx), busRead_busStore_sameByte hwf hx]
    rfl
  · rw [hr, pushedBus, busRead_busStore_sameByte (wf_busStore hwf) hx]
    rfl
  · rw [hr, pushedBus, busRead_busStore_other h₂, busRead_busStore_other h₁]
    rfl

@[simp] theorem popWord_fst (s : State) : (popWord s).1 = concat (memRead s (s.sp + 1)) (memRead s s.sp) := rfl
@[simp] theorem popWord_snd (s : State) : (popWord s).2 = s.setSp (s.sp + 2) := rfl

/-- A pop right after a completed push on mapped stack bytes gives the pushed word and restores SP (43_stack.md R160). -/
theorem popWord_pushed {w : Word} {s t : State} (hwf : s.bus.mem.wf = true) (h₁ : ¬ Unmapped (s.sp - 2))
    (h₂ : ¬ Unmapped (s.sp - 1)) (hbus : t.bus = pushedBus w s) (hsp : t.sp = s.sp - 2) :
    popWord t = (w, t.setSp s.sp) := by
  obtain ⟨hlo, hhi⟩ := (pushedBytes_pushedBus hbus).1 hwf
  have hlo := hlo _ (.inl rfl)
  have hhi := hhi _ (.inl rfl)
  rw [if_neg h₁] at hlo
  rw [if_neg h₂] at hhi
  have hback : s.sp - 2 + 2 = s.sp := by bv_omega
  rw [popWord, hsp, sp_sub_two_add_one, hlo, hhi, hback, concat_hiByte_loByte]

/-- A completed push to two unmapped addresses leaves the bus as it was (43_stack.md R160). -/
theorem pushedBus_unmapped {w : Word} {s : State} (h₁ : Unmapped (s.sp - 2)) (h₂ : Unmapped (s.sp - 1)) :
    pushedBus w s = s.bus := by
  rw [pushedBus, busStore_unmapped (region_unmapped_iff.mpr h₁), busStore_unmapped (region_unmapped_iff.mpr h₂)]

/-- A pop from two unmapped addresses gives 0xFFFF (43_stack.md R160). -/
theorem popWord_unmapped {s : State} (h₁ : Unmapped s.sp) (h₂ : Unmapped (s.sp + 1)) :
    popWord s = (concat 0xFF 0xFF, s.setSp (s.sp + 2)) := by
  rw [popWord, memRead, memRead, busRead_unmapped (region_unmapped_iff.mpr h₁),
    busRead_unmapped (region_unmapped_iff.mpr h₂)]
  rfl

end Sys2Proof.Machine
end

