-- ==== Sys2Proof/Laws/Decode.lean ====
section
/-!
SUPPORT. The agreement of the decoder's table with the encoder's bit layouts, and the decoder by the kind of table entry its opcode byte has (30_encoding.md R83, R85, R86).
-/

namespace Sys2Proof

theorem decode_bare {op : Byte} {i : Instr} (h : opcodeEntry op = .bare i) (rest : List Byte) :
    decode (op :: rest) = .ok (i, rest) := by
  simp only [decode, h]

theorem decode_imm8 {op : Byte} {k : Byte → Instr} (h : opcodeEntry op = .imm8 k) (n : Byte) (rest : List Byte) :
    decode (op :: n :: rest) = .ok (k n, rest) := by
  simp only [decode, h]

theorem decode_imm16 {op : Byte} {k : Word → Instr} (h : opcodeEntry op = .imm16 k) (lo hi : Byte) (rest : List Byte) :
    decode (op :: lo :: hi :: rest) = .ok (k (Machine.concat hi lo), rest) := by
  simp only [decode, h]

/-- The encoder agrees with a table entry for the opcode byte `op`: every instruction the entry can give is well formed and
encodes as `op` and its operand bytes (30_encoding.md R85, R89, R90). -/
def EntryEncodes (op : Byte) : OpcodeEntry → Prop
  | .bare i => encode i = [op] ∧ i.wf = true
  | .imm8 k => ∀ n, encode (k n) = [op, n] ∧ (k n).wf = true
  | .imm16 k => ∀ nn, encode (k nn) = withWord op nn ∧ (k nn).wf = true

/-- The decoder's table and the encoder's bit layouts agree on every one of the 256 bytes. -/
theorem opcodeEntry_encodes (op : Byte) : EntryEncodes op (opcodeEntry op) := by
  have hop : op = BitVec.ofNat 8 op.toNat := by simp
  unfold opcodeEntry
  split
  case h_95 =>
    refine ⟨rfl, ?_⟩
    simp only [Instr.wf, implementedOpcode]
    simp [implementedOpcodes, controlOpcodes, loadImmediateOpcodes, loadRegisterOpcodes, incDecOpcodes, xorOpcodes,
      stackOpcodes, ← BitVec.toNat_inj]
    and_intros <;> assumption
  all_goals
    rename_i h
    rw [h] at hop
    subst hop
    first
    | exact ⟨by decide, rfl⟩
    | (intro n; refine ⟨?_, rfl⟩; rfl)

/-- Every well-formed instruction comes from the table entry of its opcode byte. -/
theorem opcodeEntry_of_encode (i : Instr) (h : i.wf = true) :
    ∃ op, (opcodeEntry op = .bare i ∧ encode i = [op]) ∨
      (∃ k n, opcodeEntry op = .imm8 k ∧ k n = i ∧ encode i = [op, n]) ∨
      ∃ k nn, opcodeEntry op = .imm16 k ∧ k nn = i ∧ encode i = withWord op nn := by
  cases i
  case unimplemented op =>
    refine ⟨op, .inl ⟨?_, rfl⟩⟩
    simp only [Instr.wf, implementedOpcode] at h
    revert h
    unfold opcodeEntry
    split
    case h_95 => intros; rfl
    all_goals
      rename_i hh
      have hop : op = BitVec.ofNat 8 op.toNat := by simp
      rw [hh] at hop
      subst hop
      exact fun h => absurd h (by decide)
  all_goals
    first
    | (refine ⟨_, .inl ⟨?_, rfl⟩⟩; rfl)
    | (refine ⟨_, .inr (.inl ⟨_, _, ?_, rfl, rfl⟩)⟩; rfl)
    | (refine ⟨_, .inr (.inr ⟨_, _, ?_, rfl, rfl⟩)⟩; rfl)

/-- The table's unimplemented entries are exactly the bytes outside R90 (30_encoding.md R91). -/
theorem opcodeEntry_unimplemented_iff (op : Byte) :
    opcodeEntry op = .bare (.unimplemented op) ↔ implementedOpcode op = false := by
  constructor
  · intro h
    have hs := opcodeEntry_encodes op
    rw [h] at hs
    simpa [EntryEncodes, Instr.wf] using hs.2
  · intro h
    obtain ⟨op', ⟨h₁, h₂⟩ | ⟨k, n, -, -, h₃⟩ | ⟨k, nn, -, -, h₃⟩⟩ :=
      opcodeEntry_of_encode (.unimplemented op) (by simp [Instr.wf, h])
    · cases h₂
      exact h₁
    · cases h₃
    · cases h₃

end Sys2Proof
end

