-- ==== Sys2Proof/Laws/Step.lean ====
section
/-!
SUPPORT. The laws of the fetch: an instruction's bytes are read at PC, PC+1 and PC+2, and the fetch changes PC alone.
-/

namespace Sys2Proof.Machine

/-- The three bytes from PC on, which hold the instruction the next step runs. -/
def fetchWindow (s : State) : List Byte := [memRead s s.pc, memRead s (s.pc + 1), memRead s (s.pc + 2)]

@[simp] theorem memRead_setPc (s : State) (w : Word) (x : Addr) : memRead (s.setPc w) x = memRead s x := rfl
@[simp] theorem memRead_setSp (s : State) (w : Word) (x : Addr) : memRead (s.setSp w) x = memRead s x := rfl
@[simp] theorem memRead_setBus (s : State) (b : Bus) (x : Addr) : memRead (s.setBus b) x = busRead b x := rfl

/-- What the fetch gives, by the table entry of the opcode byte (30_encoding.md R82, R84, R85). -/
theorem fetchInstr_eq (s : State) :
    fetchInstr s =
      match opcodeEntry (memRead s s.pc) with
      | .bare i => (i, s.setPc (s.pc + 1))
      | .imm8 k => (k (memRead s (s.pc + 1)), s.setPc (s.pc + 2))
      | .imm16 k => (k (concat (memRead s (s.pc + 2)) (memRead s (s.pc + 1))), s.setPc (s.pc + 3)) := by
  have h₂ : s.pc + 1 + 1 = s.pc + 2 := by bv_omega
  have h₃ : s.pc + 2 + 1 = s.pc + 3 := by bv_omega
  have hp (x y : Word) : (s.setPc x).setPc y = s.setPc y := rfl
  simp only [fetchInstr, fetch8, fetch16]
  cases opcodeEntry (memRead s s.pc) <;> simp only [memRead_setPc, State.setPc_pc, hp, h₂, h₃]

/-- The fetch moves PC and nothing else. -/
theorem fetchInstr_snd (s : State) : (fetchInstr s).2 = s.setPc (fetchInstr s).2.pc := by
  rw [fetchInstr_eq]
  cases opcodeEntry (memRead s s.pc) <;> rfl

/-- The fetch reads exactly what the decoder reads off the three bytes at PC. -/
theorem decode_fetchWindow (s : State) :
    ∃ rest, decode (fetchWindow s) = .ok ((fetchInstr s).1, rest) ∧
      (fetchInstr s).2 = s.setPc (s.pc + BitVec.ofNat 16 (3 - rest.length)) := by
  rw [fetchInstr_eq, fetchWindow]
  cases h : opcodeEntry (memRead s s.pc) with
  | bare i => exact ⟨_, decode_bare h _, rfl⟩
  | imm8 k => exact ⟨_, decode_imm8 h _ _, rfl⟩
  | imm16 k => exact ⟨_, decode_imm16 h _ _ _, rfl⟩

theorem wf_memWrite {x : Addr} {v : Byte} {s t : State} (h : memWrite x v s = .next t) (hs : s.bus.mem.wf = true) :
    t.bus.mem.wf = true := by
  rw [memWrite_eq] at h
  split_ifs at h
  cases h
  exact wf_busStore hs

theorem wf_placeBytes {b : Bus} {x : Addr} {vs : List Byte} (h : b.mem.wf = true) : (placeBytes b x vs).mem.wf = true := by
  induction vs generalizing b x with
  | nil => exact h
  | cons v vs ih => exact ih (wf_busStore h)

/-- Memory at reset has the canonical form. -/
theorem wf_reset : State.reset.bus.mem.wf = true := rfl

end Sys2Proof.Machine
end

