-- ==== Sys2Proof/Laws/Exec.lean ====
section
/-!
SUPPORT. Once for all instructions: what an execution can do to the bus, and how it can stop. Later proofs split on this,
not on the meanings.
-/

namespace Sys2Proof.Machine

/-- The ways the execution of `i` from `s` can end: it leaves the bus alone; or it is a PUSH or CALL that was allowed and
stored both bytes of some word; or it is the unimplemented opcode; or it is a PUSH or CALL whose push failed. -/
def ExecEnds (i : Instr) (s : State) : Result → Prop
  | .next t => (¬ WritesMemory i ∧ t.bus = s.bus) ∨ (WritesMemory i ∧ PushAllowed s.sp ∧ ∃ w, t.bus = pushedBus w s)
  | .fault f =>
    (∃ op, i = .unimplemented op ∧ f = .unimplementedOpcode op s) ∨
      (WritesMemory i ∧ ¬ PushAllowed s.sp ∧ ∃ w, pushWord w s = .fault f)
  | .refused _ => False

/-- A push, with an update after it that leaves the bus alone. -/
theorem execEnds_push {i : Instr} (hi : WritesMemory i) (w : Word) (s : State) (k : State → State)
    (hk : ∀ t, (k t).bus = t.bus) : ExecEnds i s (andThen (pushWord w s) fun t => .next (k t)) := by
  cases h : pushWord w s with
  | next t =>
    obtain ⟨ha, ht⟩ := pushWord_next h
    exact .inr ⟨hi, ha, w, by rw [hk, ht]; rfl⟩
  | fault f =>
    refine .inr ⟨hi, fun ha => ?_, w, h⟩
    rw [pushWord_allowed ha] at h
    cases h
  | refused r =>
    rw [pushWord_eq] at h
    split_ifs at h

theorem execEnds_pushWord {i : Instr} (hi : WritesMemory i) (w : Word) (s : State) : ExecEnds i s (pushWord w s) := by
  have h := execEnds_push hi w s id fun _ => rfl
  cases hp : pushWord w s <;> simpa [hp] using h

theorem exec_ends (i : Instr) (s : State) : ExecEnds i s (exec i s) := by
  cases i
  case push_BC => exact execEnds_pushWord (by simp [WritesMemory]) _ _
  case push_DE => exact execEnds_pushWord (by simp [WritesMemory]) _ _
  case push_HL => exact execEnds_pushWord (by simp [WritesMemory]) _ _
  case push_AF => exact execEnds_pushWord (by simp [WritesMemory]) _ _
  case call_nn nn => exact execEnds_push (by simp [WritesMemory]) _ _ (fun t => t.setPc nn) fun _ => rfl
  case unimplemented op => exact .inl ⟨op, rfl, rfl⟩
  all_goals exact .inl ⟨by simp [WritesMemory], rfl⟩

/-- A step ends as its instruction does, from the state the fetch leaves. -/
theorem step_ends (s : State) : ExecEnds (fetchInstr s).1 (s.setPc (fetchInstr s).2.pc) (step s) := by
  rw [step, fetchInstr_snd]
  exact exec_ends _ _

/-- A PUSH is the shared push of the pair (43_stack.md R161, R162). -/
theorem exec_pushOf (p : Pair) (s : State) : exec (pushOf p) s = pushWord (s.pair p) s := by cases p <;> rfl

/-- A POP is the shared pop into the pair (43_stack.md R163, R164). -/
theorem exec_popOf (p : Pair) (s : State) : exec (popOf p) s = .next ((popWord s).2.setPair p (popWord s).1) := by
  cases p <;> rfl

/-- A pair is its two registers (10_state.md R25). -/
theorem pair_eq (p : Pair) (s : State) : s.pair p = concat (highOf p s) (lowOf p s) := by cases p <;> rfl

/-- A POP right after a completed PUSH on mapped stack bytes (43_stack.md R160, R163, R164). -/
theorem exec_popOf_pushed {p : Pair} (q : Pair) {s t : State} (hwf : s.bus.mem.wf = true)
    (h₁ : ¬ Unmapped (s.sp - 2)) (h₂ : ¬ Unmapped (s.sp - 1)) (h : exec (pushOf p) s = .next t) :
    exec (popOf q) t = .next ((t.setSp s.sp).setPair q (concat (highOf p s) (lowOf p s))) := by
  rw [exec_pushOf] at h
  obtain ⟨-, rfl⟩ := pushWord_next h
  rw [exec_popOf, popWord_pushed hwf h₁ h₂ rfl rfl, pair_eq]

end Sys2Proof.Machine
end

