-- ==== Sys2Proof/Laws/Flags.lean ====
section
/-!
SUPPORT. The flag updates of INC, DEC and XOR in closed form.
-/

namespace Sys2Proof.Machine

/-- A masked byte has its low nibble 0 (10_state.md R24). -/
theorem masked_low (v : Byte) : v &&& 0xF0 &&& 0x0F = 0 := by
  revert v
  decide +kernel

/-- INC's flag updates leave `incF` of the old F and the operand (41_alu8.md R121). -/
theorem setFlags_inc (s : State) (v : Byte) :
    ((s.setFlag .z (v + 1 == 0)).setFlag .n false).setFlag .h (incHalfCarry v) = { s with f := incF s.f v } := by
  have hb : ∀ (f : Byte) (z h : Bool),
      (if h then ((if z then f ||| 0x80 else f &&& ~~~ 0x80) &&& 0xF0 &&& ~~~ 0x40) &&& 0xF0 ||| 0x20
        else ((if z then f ||| 0x80 else f &&& ~~~ 0x80) &&& 0xF0 &&& ~~~ 0x40) &&& 0xF0 &&& ~~~ 0x20) &&& 0xF0 =
      ((if z then 0x80 else 0) ||| (if h then 0x20 else 0) ||| (f &&& 0x10) : Byte) := by decide +kernel
  have e := hb s.f (v + 1 == 0) (incHalfCarry v)
  simp only [incHalfCarry, beq_iff_eq] at e
  unfold incF
  rw [← e]
  simp [State.setFlag, State.setF, flagMask, incHalfCarry]

/-- DEC's flag updates leave `decF` of the old F and the operand (41_alu8.md R122). -/
theorem setFlags_dec (s : State) (v : Byte) :
    ((s.setFlag .z (v - 1 == 0)).setFlag .n true).setFlag .h (decHalfBorrow v) = { s with f := decF s.f v } := by
  have hb : ∀ (f : Byte) (z h : Bool),
      (if h then ((if z then f ||| 0x80 else f &&& ~~~ 0x80) &&& 0xF0 ||| 0x40) &&& 0xF0 ||| 0x20
        else ((if z then f ||| 0x80 else f &&& ~~~ 0x80) &&& 0xF0 ||| 0x40) &&& 0xF0 &&& ~~~ 0x20) &&& 0xF0 =
      ((if z then 0x80 else 0) ||| 0x40 ||| (if h then 0x20 else 0) ||| (f &&& 0x10) : Byte) := by decide +kernel
  have e := hb s.f (v - 1 == 0) (decHalfBorrow v)
  simp only [decHalfBorrow, beq_iff_eq] at e
  unfold decF
  rw [← e]
  simp [State.setFlag, State.setF, flagMask, decHalfBorrow]

/-- XOR's F byte is `xorF` of the result (41_alu8.md R123). -/
theorem setF_xorFlags (s : State) (v : Byte) : s.setF (xorFlags v) = { s with f := xorF v } := by
  unfold xorFlags xorF State.setF
  by_cases h : v = 0#8 <;> simp [h]

end Sys2Proof.Machine
end

