-- ==== Sys2Proof/Laws/HostInterface.lean ====
section
/-!
SUPPORT. The laws of the host interface: what `load_rom` and `cpu.step` answer.
-/

namespace Sys2Proof.Machine

/-- An image over the capacity is rejected and nothing changes (20_memory.md R71, 60_exceptions.md R184). -/
theorem loadRom_tooLarge {bytes : List Byte} {s : State} (h : Config.romCapacity < bytes.length) :
    loadRom bytes s = .fault (.romTooLarge bytes.length Config.romCapacity s) :=
  if_pos h

/-- An image that fits is copied from address 0 on (20_memory.md R71). -/
theorem loadRom_fits {bytes : List Byte} {s : State} (h : bytes.length ≤ Config.romCapacity) :
    loadRom bytes s = .next (s.setBus { s.bus with mem := s.bus.mem.load 0 bytes }) :=
  if_neg (Nat.not_lt.mpr h)

/-- ROM addresses are storage cells. -/
theorem isCell_rom {n : Nat} (h : n ≤ Config.romCapacity) : ∀ j, 0 ≤ j → j < 0 + n → isCell j = true := by
  intro j _ hj
  simp only [Config.romCapacity] at h
  simp only [isCell, Bool.or_eq_true, decide_eq_true_eq]
  omega

/-- Loading an image keeps the canonical form. -/
theorem wf_loadRom {bytes : List Byte} {s t : State} (h : loadRom bytes s = .next t) (hs : s.bus.mem.wf = true) :
    t.bus.mem.wf = true := by
  by_cases hl : bytes.length ≤ Config.romCapacity
  · rw [loadRom_fits hl] at h
    cases h
    exact Memory.wf_load (isCell_rom hl) hs
  · rw [loadRom_tooLarge (by omega)] at h
    cases h

/-- A step that succeeds reports its instruction's cost (30_encoding.md R81). -/
theorem cpuStep_next {s t : State} (h : step s = .next t) : cpuStep s = (cycles (fetchInstr s).1, .next t) := by
  unfold cpuStep
  rw [h]

/-- A step that ends in an error reports 0 cycles (30_encoding.md R81). -/
theorem cpuStep_fault {s : State} {f : Fault} (h : step s = .fault f) : cpuStep s = (0, .fault f) := by
  unfold cpuStep
  rw [h]

end Sys2Proof.Machine
end

