-- ==== Sys2Proof/Laws/PerInstr.lean ====
section
/-!
SUPPORT. Laws stated per instruction, about its syntax and encoding: the first byte of an instruction's encoding is an
admitted opcode exactly when the instruction is not the unimplemented one, and the encoding is one to three bytes long.
-/

namespace Sys2Proof.Laws.OpcodeAdmitted

/-- The encoding has 1 to 3 bytes (30_encoding.md R86), and its opcode byte is admitted (R90), or, for `unimplemented`, is the
byte it carries and is not admitted (R91). -/
def Statement (i : Instr) : Prop :=
  i.wf = true →
    1 ≤ i.length ∧ i.length ≤ 3 ∧
    (((∃ op, i = .unimplemented op ∧ encode i = [op] ∧ implementedOpcode op = false)) ∨
      ∃ op rest, encode i = op :: rest ∧ implementedOpcode op = true)

/-- An admitted instruction, from its opcode byte and operand bytes. -/
theorem of_encode {i : Instr} (op : Byte) (rest : List Byte) (h : encode i = op :: rest) (hl : rest.length ≤ 2)
    (ho : implementedOpcode op = true) : Statement i := fun _ => by
  refine ⟨?_, ?_, .inr ⟨op, rest, h, ho⟩⟩ <;> simp [Instr.length, h]
  omega

theorem nop : Statement .nop := of_encode 0x00 [] rfl (by decide) (by decide)
theorem ld_BC_nn (nn : Word) : Statement (.ld_BC_nn nn) := of_encode 0x01 [Machine.loByte nn, Machine.hiByte nn] rfl (Nat.le_of_ble_eq_true rfl) (by decide)
theorem inc_B : Statement .inc_B := of_encode 0x04 [] rfl (by decide) (by decide)
theorem dec_B : Statement .dec_B := of_encode 0x05 [] rfl (by decide) (by decide)
theorem ld_B_n (n : Byte) : Statement (.ld_B_n n) := of_encode 0x06 [n] rfl (Nat.le_of_ble_eq_true rfl) (by decide)
theorem inc_C : Statement .inc_C := of_encode 0x0C [] rfl (by decide) (by decide)
theorem dec_C : Statement .dec_C := of_encode 0x0D [] rfl (by decide) (by decide)
theorem ld_C_n (n : Byte) : Statement (.ld_C_n n) := of_encode 0x0E [n] rfl (Nat.le_of_ble_eq_true rfl) (by decide)
theorem ld_DE_nn (nn : Word) : Statement (.ld_DE_nn nn) := of_encode 0x11 [Machine.loByte nn, Machine.hiByte nn] rfl (Nat.le_of_ble_eq_true rfl) (by decide)
theorem inc_D : Statement .inc_D := of_encode 0x14 [] rfl (by decide) (by decide)
theorem dec_D : Statement .dec_D := of_encode 0x15 [] rfl (by decide) (by decide)
theorem ld_D_n (n : Byte) : Statement (.ld_D_n n) := of_encode 0x16 [n] rfl (Nat.le_of_ble_eq_true rfl) (by decide)
theorem jr_e (e : Byte) : Statement (.jr_e e) := of_encode 0x18 [e] rfl (Nat.le_of_ble_eq_true rfl) (by decide)
theorem inc_E : Statement .inc_E := of_encode 0x1C [] rfl (by decide) (by decide)
theorem dec_E : Statement .dec_E := of_encode 0x1D [] rfl (by decide) (by decide)
theorem ld_E_n (n : Byte) : Statement (.ld_E_n n) := of_encode 0x1E [n] rfl (Nat.le_of_ble_eq_true rfl) (by decide)
theorem ld_HL_nn (nn : Word) : Statement (.ld_HL_nn nn) := of_encode 0x21 [Machine.loByte nn, Machine.hiByte nn] rfl (Nat.le_of_ble_eq_true rfl) (by decide)
theorem inc_H : Statement .inc_H := of_encode 0x24 [] rfl (by decide) (by decide)
theorem dec_H : Statement .dec_H := of_encode 0x25 [] rfl (by decide) (by decide)
theorem ld_H_n (n : Byte) : Statement (.ld_H_n n) := of_encode 0x26 [n] rfl (Nat.le_of_ble_eq_true rfl) (by decide)
theorem inc_L : Statement .inc_L := of_encode 0x2C [] rfl (by decide) (by decide)
theorem dec_L : Statement .dec_L := of_encode 0x2D [] rfl (by decide) (by decide)
theorem ld_L_n (n : Byte) : Statement (.ld_L_n n) := of_encode 0x2E [n] rfl (Nat.le_of_ble_eq_true rfl) (by decide)
theorem ld_SP_nn (nn : Word) : Statement (.ld_SP_nn nn) := of_encode 0x31 [Machine.loByte nn, Machine.hiByte nn] rfl (Nat.le_of_ble_eq_true rfl) (by decide)
theorem inc_A : Statement .inc_A := of_encode 0x3C [] rfl (by decide) (by decide)
theorem dec_A : Statement .dec_A := of_encode 0x3D [] rfl (by decide) (by decide)
theorem ld_A_n (n : Byte) : Statement (.ld_A_n n) := of_encode 0x3E [n] rfl (Nat.le_of_ble_eq_true rfl) (by decide)
theorem ld_B_B : Statement .ld_B_B := of_encode 0x40 [] rfl (by decide) (by decide)
theorem ld_B_C : Statement .ld_B_C := of_encode 0x41 [] rfl (by decide) (by decide)
theorem ld_B_D : Statement .ld_B_D := of_encode 0x42 [] rfl (by decide) (by decide)
theorem ld_B_E : Statement .ld_B_E := of_encode 0x43 [] rfl (by decide) (by decide)
theorem ld_B_H : Statement .ld_B_H := of_encode 0x44 [] rfl (by decide) (by decide)
theorem ld_B_L : Statement .ld_B_L := of_encode 0x45 [] rfl (by decide) (by decide)
theorem ld_B_A : Statement .ld_B_A := of_encode 0x47 [] rfl (by decide) (by decide)
theorem ld_C_B : Statement .ld_C_B := of_encode 0x48 [] rfl (by decide) (by decide)
theorem ld_C_C : Statement .ld_C_C := of_encode 0x49 [] rfl (by decide) (by decide)
theorem ld_C_D : Statement .ld_C_D := of_encode 0x4A [] rfl (by decide) (by decide)
theorem ld_C_E : Statement .ld_C_E := of_encode 0x4B [] rfl (by decide) (by decide)
theorem ld_C_H : Statement .ld_C_H := of_encode 0x4C [] rfl (by decide) (by decide)
theorem ld_C_L : Statement .ld_C_L := of_encode 0x4D [] rfl (by decide) (by decide)
theorem ld_C_A : Statement .ld_C_A := of_encode 0x4F [] rfl (by decide) (by decide)
theorem ld_D_B : Statement .ld_D_B := of_encode 0x50 [] rfl (by decide) (by decide)
theorem ld_D_C : Statement .ld_D_C := of_encode 0x51 [] rfl (by decide) (by decide)
theorem ld_D_D : Statement .ld_D_D := of_encode 0x52 [] rfl (by decide) (by decide)
theorem ld_D_E : Statement .ld_D_E := of_encode 0x53 [] rfl (by decide) (by decide)
theorem ld_D_H : Statement .ld_D_H := of_encode 0x54 [] rfl (by decide) (by decide)
theorem ld_D_L : Statement .ld_D_L := of_encode 0x55 [] rfl (by decide) (by decide)
theorem ld_D_A : Statement .ld_D_A := of_encode 0x57 [] rfl (by decide) (by decide)
theorem ld_E_B : Statement .ld_E_B := of_encode 0x58 [] rfl (by decide) (by decide)
theorem ld_E_C : Statement .ld_E_C := of_encode 0x59 [] rfl (by decide) (by decide)
theorem ld_E_D : Statement .ld_E_D := of_encode 0x5A [] rfl (by decide) (by decide)
theorem ld_E_E : Statement .ld_E_E := of_encode 0x5B [] rfl (by decide) (by decide)
theorem ld_E_H : Statement .ld_E_H := of_encode 0x5C [] rfl (by decide) (by decide)
theorem ld_E_L : Statement .ld_E_L := of_encode 0x5D [] rfl (by decide) (by decide)
theorem ld_E_A : Statement .ld_E_A := of_encode 0x5F [] rfl (by decide) (by decide)
theorem ld_H_B : Statement .ld_H_B := of_encode 0x60 [] rfl (by decide) (by decide)
theorem ld_H_C : Statement .ld_H_C := of_encode 0x61 [] rfl (by decide) (by decide)
theorem ld_H_D : Statement .ld_H_D := of_encode 0x62 [] rfl (by decide) (by decide)
theorem ld_H_E : Statement .ld_H_E := of_encode 0x63 [] rfl (by decide) (by decide)
theorem ld_H_H : Statement .ld_H_H := of_encode 0x64 [] rfl (by decide) (by decide)
theorem ld_H_L : Statement .ld_H_L := of_encode 0x65 [] rfl (by decide) (by decide)
theorem ld_H_A : Statement .ld_H_A := of_encode 0x67 [] rfl (by decide) (by decide)
theorem ld_L_B : Statement .ld_L_B := of_encode 0x68 [] rfl (by decide) (by decide)
theorem ld_L_C : Statement .ld_L_C := of_encode 0x69 [] rfl (by decide) (by decide)
theorem ld_L_D : Statement .ld_L_D := of_encode 0x6A [] rfl (by decide) (by decide)
theorem ld_L_E : Statement .ld_L_E := of_encode 0x6B [] rfl (by decide) (by decide)
theorem ld_L_H : Statement .ld_L_H := of_encode 0x6C [] rfl (by decide) (by decide)
theorem ld_L_L : Statement .ld_L_L := of_encode 0x6D [] rfl (by decide) (by decide)
theorem ld_L_A : Statement .ld_L_A := of_encode 0x6F [] rfl (by decide) (by decide)
theorem ld_A_B : Statement .ld_A_B := of_encode 0x78 [] rfl (by decide) (by decide)
theorem ld_A_C : Statement .ld_A_C := of_encode 0x79 [] rfl (by decide) (by decide)
theorem ld_A_D : Statement .ld_A_D := of_encode 0x7A [] rfl (by decide) (by decide)
theorem ld_A_E : Statement .ld_A_E := of_encode 0x7B [] rfl (by decide) (by decide)
theorem ld_A_H : Statement .ld_A_H := of_encode 0x7C [] rfl (by decide) (by decide)
theorem ld_A_L : Statement .ld_A_L := of_encode 0x7D [] rfl (by decide) (by decide)
theorem ld_A_A : Statement .ld_A_A := of_encode 0x7F [] rfl (by decide) (by decide)
theorem xor_B : Statement .xor_B := of_encode 0xA8 [] rfl (by decide) (by decide)
theorem xor_C : Statement .xor_C := of_encode 0xA9 [] rfl (by decide) (by decide)
theorem xor_D : Statement .xor_D := of_encode 0xAA [] rfl (by decide) (by decide)
theorem xor_E : Statement .xor_E := of_encode 0xAB [] rfl (by decide) (by decide)
theorem xor_H : Statement .xor_H := of_encode 0xAC [] rfl (by decide) (by decide)
theorem xor_L : Statement .xor_L := of_encode 0xAD [] rfl (by decide) (by decide)
theorem xor_A : Statement .xor_A := of_encode 0xAF [] rfl (by decide) (by decide)
theorem pop_BC : Statement .pop_BC := of_encode 0xC1 [] rfl (by decide) (by decide)
theorem jp_nn (nn : Word) : Statement (.jp_nn nn) := of_encode 0xC3 [Machine.loByte nn, Machine.hiByte nn] rfl (Nat.le_of_ble_eq_true rfl) (by decide)
theorem push_BC : Statement .push_BC := of_encode 0xC5 [] rfl (by decide) (by decide)
theorem ret : Statement .ret := of_encode 0xC9 [] rfl (by decide) (by decide)
theorem call_nn (nn : Word) : Statement (.call_nn nn) := of_encode 0xCD [Machine.loByte nn, Machine.hiByte nn] rfl (Nat.le_of_ble_eq_true rfl) (by decide)
theorem pop_DE : Statement .pop_DE := of_encode 0xD1 [] rfl (by decide) (by decide)
theorem push_DE : Statement .push_DE := of_encode 0xD5 [] rfl (by decide) (by decide)
theorem pop_HL : Statement .pop_HL := of_encode 0xE1 [] rfl (by decide) (by decide)
theorem push_HL : Statement .push_HL := of_encode 0xE5 [] rfl (by decide) (by decide)
theorem pop_AF : Statement .pop_AF := of_encode 0xF1 [] rfl (by decide) (by decide)
theorem push_AF : Statement .push_AF := of_encode 0xF5 [] rfl (by decide) (by decide)

theorem unimplemented (op : Byte) : Statement (.unimplemented op) := fun h =>
  ⟨Nat.le_refl 1, Nat.le_of_ble_eq_true rfl, .inl ⟨op, rfl, rfl, by simpa [Instr.wf] using h⟩⟩

end Sys2Proof.Laws.OpcodeAdmitted
end

