-- ==== Sys2Proof/Tests/Slice0.lean ====
section
/-!
SUPPORT. The model's own tests: the smoke test of WellFormed, every constructor's decoding from the words of
30_encoding.md R89 and spec/opcode_table.json, one-step vectors of spec/95_test_vectors.md (S1-S12 and section 2, quoted in
each comment), and the witnesses that the hypotheses of the obligations can be met.
-/

namespace Sys2Proof.Tests

open Sys2Proof Sys2Proof.Machine

/-! ## WellFormed: the one check refuses an ill-formed term -/

/-- 0x00 is admitted (R90), so it is no unimplemented opcode. -/
theorem test_wf_refuses_admitted_unimplemented : (Instr.unimplemented 0x00).wf = false := by decide

/-- 0xCB is outside R90. -/
theorem test_wf_accepts_unimplemented : (Instr.unimplemented 0xCB).wf = true := by decide

/-! ## Decoding: words written bit by bit from R89 -/

/-- Does the decoder read exactly this instruction from these bytes? -/
def reads (bytes : List Byte) (i : Instr) : Bool :=
  match decode bytes with
  | .ok (j, []) => decide (j = i)
  | _ => false

/-- Formats F1-op, F2-e, F3-nn (R89). -/
theorem test_decode_nop_control :
    ([([0b00000000], .nop), ([0b00011000, 0xFD], .jr_e 0xFD), ([0b11000011, 0x34, 0x12], .jp_nn 0x1234),
      ([0b11001001], .ret), ([0b11001101, 0x34, 0x12], .call_nn 0x1234)] : List (List Byte × Instr)).all (fun p => reads p.1 p.2) = true := by
  decide +kernel

/-- Format F2-r-n, `00 rrr 110` (R89). -/
theorem test_decode_ld_r_n :
    ([([0b00000110, 0xFD], .ld_B_n 0xFD), ([0b00001110, 0xFD], .ld_C_n 0xFD),
      ([0b00010110, 0xFD], .ld_D_n 0xFD), ([0b00011110, 0xFD], .ld_E_n 0xFD),
      ([0b00100110, 0xFD], .ld_H_n 0xFD), ([0b00101110, 0xFD], .ld_L_n 0xFD),
      ([0b00111110, 0xFD], .ld_A_n 0xFD)] : List (List Byte × Instr)).all (fun p => reads p.1 p.2) = true := by
  decide +kernel

/-- Format F1-dd-ss, `01 ddd sss` (R89). -/
theorem test_decode_ld_B_r :
    ([([0b01000000], .ld_B_B), ([0b01000001], .ld_B_C), ([0b01000010], .ld_B_D), ([0b01000011], .ld_B_E),
      ([0b01000100], .ld_B_H), ([0b01000101], .ld_B_L), ([0b01000111], .ld_B_A)] : List (List Byte × Instr)).all (fun p => reads p.1 p.2) = true := by
  decide +kernel

/-- Format F1-dd-ss, `01 ddd sss` (R89). -/
theorem test_decode_ld_C_r :
    ([([0b01001000], .ld_C_B), ([0b01001001], .ld_C_C), ([0b01001010], .ld_C_D), ([0b01001011], .ld_C_E),
      ([0b01001100], .ld_C_H), ([0b01001101], .ld_C_L), ([0b01001111], .ld_C_A)] : List (List Byte × Instr)).all (fun p => reads p.1 p.2) = true := by
  decide +kernel

/-- Format F1-dd-ss, `01 ddd sss` (R89). -/
theorem test_decode_ld_D_r :
    ([([0b01010000], .ld_D_B), ([0b01010001], .ld_D_C), ([0b01010010], .ld_D_D), ([0b01010011], .ld_D_E),
      ([0b01010100], .ld_D_H), ([0b01010101], .ld_D_L), ([0b01010111], .ld_D_A)] : List (List Byte × Instr)).all (fun p => reads p.1 p.2) = true := by
  decide +kernel

/-- Format F1-dd-ss, `01 ddd sss` (R89). -/
theorem test_decode_ld_E_r :
    ([([0b01011000], .ld_E_B), ([0b01011001], .ld_E_C), ([0b01011010], .ld_E_D), ([0b01011011], .ld_E_E),
      ([0b01011100], .ld_E_H), ([0b01011101], .ld_E_L), ([0b01011111], .ld_E_A)] : List (List Byte × Instr)).all (fun p => reads p.1 p.2) = true := by
  decide +kernel

/-- Format F1-dd-ss, `01 ddd sss` (R89). -/
theorem test_decode_ld_H_r :
    ([([0b01100000], .ld_H_B), ([0b01100001], .ld_H_C), ([0b01100010], .ld_H_D), ([0b01100011], .ld_H_E),
      ([0b01100100], .ld_H_H), ([0b01100101], .ld_H_L), ([0b01100111], .ld_H_A)] : List (List Byte × Instr)).all (fun p => reads p.1 p.2) = true := by
  decide +kernel

/-- Format F1-dd-ss, `01 ddd sss` (R89). -/
theorem test_decode_ld_L_r :
    ([([0b01101000], .ld_L_B), ([0b01101001], .ld_L_C), ([0b01101010], .ld_L_D), ([0b01101011], .ld_L_E),
      ([0b01101100], .ld_L_H), ([0b01101101], .ld_L_L), ([0b01101111], .ld_L_A)] : List (List Byte × Instr)).all (fun p => reads p.1 p.2) = true := by
  decide +kernel

/-- Format F1-dd-ss, `01 ddd sss` (R89). -/
theorem test_decode_ld_A_r :
    ([([0b01111000], .ld_A_B), ([0b01111001], .ld_A_C), ([0b01111010], .ld_A_D), ([0b01111011], .ld_A_E),
      ([0b01111100], .ld_A_H), ([0b01111101], .ld_A_L), ([0b01111111], .ld_A_A)] : List (List Byte × Instr)).all (fun p => reads p.1 p.2) = true := by
  decide +kernel

/-- Format F3-rr-nn, `00 rr 0001`, low byte first (R85, R89). -/
theorem test_decode_ld_rr_nn :
    ([([0b00000001, 0x34, 0x12], .ld_BC_nn 0x1234), ([0b00010001, 0x34, 0x12], .ld_DE_nn 0x1234),
      ([0b00100001, 0x34, 0x12], .ld_HL_nn 0x1234), ([0b00110001, 0x34, 0x12], .ld_SP_nn 0x1234)] : List (List Byte × Instr)).all (fun p => reads p.1 p.2) = true := by
  decide +kernel

/-- Format F1-r, `00 rrr 100` and `00 rrr 101` (R89). -/
theorem test_decode_inc_dec :
    ([([0b00000100], .inc_B), ([0b00000101], .dec_B), ([0b00001100], .inc_C), ([0b00001101], .dec_C),
      ([0b00010100], .inc_D), ([0b00010101], .dec_D), ([0b00011100], .inc_E), ([0b00011101], .dec_E),
      ([0b00100100], .inc_H), ([0b00100101], .dec_H), ([0b00101100], .inc_L), ([0b00101101], .dec_L),
      ([0b00111100], .inc_A), ([0b00111101], .dec_A)] : List (List Byte × Instr)).all (fun p => reads p.1 p.2) = true := by
  decide +kernel

/-- Format F1-s, `10101 sss` (R89). -/
theorem test_decode_xor :
    ([([0b10101000], .xor_B), ([0b10101001], .xor_C), ([0b10101010], .xor_D), ([0b10101011], .xor_E),
      ([0b10101100], .xor_H), ([0b10101101], .xor_L), ([0b10101111], .xor_A)] : List (List Byte × Instr)).all (fun p => reads p.1 p.2) = true := by
  decide +kernel

/-- Format F1-qq, `11 qq 0101` and `11 qq 0001` (R89). -/
theorem test_decode_push_pop :
    ([([0b11000001], .pop_BC), ([0b11000101], .push_BC), ([0b11010001], .pop_DE), ([0b11010101], .push_DE),
      ([0b11100001], .pop_HL), ([0b11100101], .push_HL), ([0b11110001], .pop_AF), ([0b11110101], .push_AF)] : List (List Byte × Instr)).all (fun p => reads p.1 p.2) = true := by
  decide +kernel

/-- R91: memory-operand forms, HALT, STOP, the CB prefix, conditionals, RST and silicon-illegal bytes are unimplemented. -/
theorem test_decode_unimplemented :
    ([0x02, 0x10, 0x34, 0x46, 0x70, 0x76, 0x80, 0xAE, 0xC0, 0xC2, 0xCB, 0xD3, 0xD9, 0xEE, 0xF3, 0xFB, 0xFF] : List Byte).all
      (fun op => reads [op] (.unimplemented op)) = true := by decide +kernel

/-- A table word: 0x21 0x34 0x12 with its first byte in bits 7-0; the operand bits above nbits read as zero. -/
theorem test_decode_table_word :
    decodeTableWord 24 0x123421 = some (.ld_HL_nn 0x1234) ∧ decodeTableWord 8 0x123421 = some (.ld_HL_nn 0x0000) := by decide

/-! ## One step: vectors of 95_test_vectors.md -/

/-- The construction state with some bytes placed from an address on and PC there. -/
def at_ (pc : Addr) (bytes : List Byte) : State :=
  (State.reset.setPc pc).setBus (placeBytes State.reset.bus pc bytes)

/-- The state a step answers, if it answers one. -/
def nextOf : Result → Option State
  | .next t => some t
  | _ => none

/-- The fault a step ends in, if it does. -/
def faultOf : Result → Option Fault
  | .fault f => some f
  | _ => none

/-- A fact about the next state. -/
def stepThen (s : State) (p : State → Bool) : Bool :=
  match step s with
  | .next t => p t
  | _ => false

/-- A fact about the state a fault leaves. -/
def faultThen (s : State) (p : Fault → Bool) : Bool :=
  match step s with
  | .fault f => p f
  | _ => false

/-- S7: NOP at PC=0: cycles 4, PC=1, everything else unchanged. -/
theorem test_nop : nextOf (cpuStep (at_ 0 [0x00])).2 = some ((at_ 0 [0x00]).setPc 1) ∧ (cpuStep (at_ 0 [0x00])).1 = 4 := by
  decide

/-- Section 2.2: NOP fetched from IE at 0xFFFF leaves PC=0x0000. -/
theorem test_nop_wraps : nextOf (step (State.reset.setPc 0xFFFF)) = some (State.reset.setPc 0x0000) := by decide

/-- S8: LD B,0x42 at PC=0: B=0x42, PC=2, cycles 8. -/
theorem test_ld_b_n : stepThen (at_ 0 [0x06, 0x42]) (fun t => t.b == 0x42 && t.pc == 2) = true ∧
    (cpuStep (at_ 0 [0x06, 0x42])).1 = 8 := by decide

/-- Section 2.2: opcode 0x06 in IE at 0xFFFF, operand 0x42 from ROM[0]: B=0x42, PC=0x0001. -/
theorem test_ld_b_n_wraps :
    stepThen ((at_ 0 [0x42]).setPc 0xFFFF |> fun s => s.setBus (busStore s.bus 0xFFFF 0x06))
      (fun t => t.b == 0x42 && t.pc == 0x0001) = true := by decide

/-- Section 2.2: LD B,C from construction: B=0x13; LD L,H: L=0x01. -/
theorem test_ld_r_r : stepThen (at_ 0x0100 [0x41]) (fun t => t.b == 0x13 && t.c == 0x13 && t.pc == 0x0101) = true ∧
    stepThen (at_ 0x0100 [0x6C]) (fun t => t.l == 0x01 && t.pc == 0x0101) = true := by decide

/-- Section 2.2: LD BC,0x1234: B=0x12, C=0x34, PC=0x0103. -/
theorem test_ld_bc_nn : stepThen (at_ 0x0100 [0x01, 0x34, 0x12]) (fun t => t.b == 0x12 && t.c == 0x34 && t.pc == 0x0103) = true := by
  decide

/-- Section 2.2: 21 in HRAM at 0xFFFE, 34 in IE, 12 in ROM[0]: H=0x12, L=0x34, PC=0x0001. -/
theorem test_ld_hl_nn_straddles :
    stepThen ((at_ 0 [0x12]).setPc 0xFFFE |> fun s => s.setBus (placeBytes s.bus 0xFFFE [0x21, 0x34]))
      (fun t => t.h == 0x12 && t.l == 0x34 && t.pc == 0x0001) = true := by decide

/-- R104's example: LD SP,0xFFFE. -/
theorem test_ld_sp_nn : stepThen (at_ 0x0100 [0x31, 0x02, 0xE0]) (fun t => t.sp == 0xE002 && t.pc == 0x0103) = true := by decide

/-- S9: INC A with A=0xFF, F=0x00: A=0x00, F=0xA0. -/
theorem test_inc_a : nextOf (exec .inc_A ((State.reset.setReg .a 0xFF).setF 0x00)) =
    some ((State.reset.setReg .a 0x00).setF 0xA0) := by decide

/-- Section 2.3: INC B rows B=0x0F, F=0x00 and B=0xFF, F=0x10 and B=0x10, F=0xF0. -/
theorem test_inc_b :
    nextOf (exec .inc_B ((State.reset.setReg .b 0x0F).setF 0x00)) = some ((State.reset.setReg .b 0x10).setF 0x20) ∧
    nextOf (exec .inc_B ((State.reset.setReg .b 0xFF).setF 0x10)) = some ((State.reset.setReg .b 0x00).setF 0xB0) ∧
    nextOf (exec .inc_B ((State.reset.setReg .b 0x10).setF 0xF0)) = some ((State.reset.setReg .b 0x11).setF 0x10) := by decide

/-- Section 2.3: DEC C rows C=0x00 and C=0x01 and C=0x10 with F=0x00, C=0x0F with F=0xF0. -/
theorem test_dec_c :
    nextOf (exec .dec_C ((State.reset.setReg .c 0x00).setF 0x00)) = some ((State.reset.setReg .c 0xFF).setF 0x60) ∧
    nextOf (exec .dec_C ((State.reset.setReg .c 0x01).setF 0x00)) = some ((State.reset.setReg .c 0x00).setF 0xC0) ∧
    nextOf (exec .dec_C ((State.reset.setReg .c 0x10).setF 0x00)) = some ((State.reset.setReg .c 0x0F).setF 0x60) ∧
    nextOf (exec .dec_C ((State.reset.setReg .c 0x0F).setF 0xF0)) = some ((State.reset.setReg .c 0x0E).setF 0x50) := by decide

/-- Section 2.3: XOR L with A=0xAB, L=0xCD, F=0xF0: A=0x66, F=0x00; XOR A: A=0x00, F=0x80. -/
theorem test_xor :
    nextOf (exec .xor_L (((State.reset.setReg .a 0xAB).setReg .l 0xCD).setF 0xF0)) =
      some (((State.reset.setReg .a 0x66).setReg .l 0xCD).setF 0x00) ∧
    nextOf (exec .xor_A ((State.reset.setReg .a 0x5A).setF 0x70)) = some ((State.reset.setReg .a 0x00).setF 0x80) := by decide

/-- Section 2.4: JP 0x0150. -/
theorem test_jp : stepThen (at_ 0x0100 [0xC3, 0x50, 0x01]) (fun t => t.pc == 0x0150) = true := by decide

/-- S10: JR with 0xFD at PC=0: PC=0xFFFF. Section 2.4: 18 80 at 0x0100: PC=0x0082. -/
theorem test_jr : stepThen (at_ 0 [0x18, 0xFD]) (fun t => t.pc == 0xFFFF) = true ∧
    stepThen (at_ 0x0100 [0x18, 0x80]) (fun t => t.pc == 0x0082) = true := by decide

/-- S11: CALL 0xC000 at PC=0, SP=0xFFFE. -/
theorem test_call : stepThen (at_ 0 [0xCD, 0x00, 0xC0])
    (fun t => t.pc == 0xC000 && t.sp == 0xFFFC && memRead t 0xFFFC == 0x03 && memRead t 0xFFFD == 0x00) = true := by decide

/-- Section 2.4: SP=0x0001: WriteToReadOnlyRegion(0x0000), PC=0x0103, SP=0xFFFF, IE=0x03. -/
theorem test_call_faults : faultThen ((at_ 0x0100 [0xCD, 0x00, 0xC0]).setSp 0x0001)
    (fun f => match f with
      | .writeToReadOnlyRegion x t => x == 0x0000 && t.pc == 0x0103 && t.sp == 0xFFFF && t.bus.ie == 0x03
      | _ => false) = true := by decide

/-- Section 2.4: RET with SP=0xFFFF, IE=0x88, ROM[0]=0x77: PC=0x7788, SP=0x0001. -/
theorem test_ret : stepThen (((at_ 0x0100 [0xC9]).setSp 0xFFFF) |> fun s => s.setBus (placeBytes s.bus 0xFFFF [0x88, 0x77]))
    (fun t => t.pc == 0x7788 && t.sp == 0x0001) = true := by decide

/-- S12: PUSH BC with BC=0x1234, SP=0xFFFE. -/
theorem test_push_bc : stepThen ((at_ 0x0100 [0xC5]).setPair .bc 0x1234)
    (fun t => t.sp == 0xFFFC && memRead t 0xFFFC == 0x34 && memRead t 0xFFFD == 0x12) = true := by decide

/-- Section 2.5: PUSH BC with SP=0x0001, BC=0x0013: WriteToReadOnlyRegion(0x0000), SP=0xFFFF, IE=0x13. -/
theorem test_push_bc_faults : faultThen ((at_ 0x0100 [0xC5]).setSp 0x0001)
    (fun f => match f with
      | .writeToReadOnlyRegion x t => x == 0x0000 && t.sp == 0xFFFF && t.bus.ie == 0x13
      | _ => false) = true := by decide

/-- Section 2.5: PUSH HL with SP=0x8002: [0x8000]=0x4D, [0x8001]=0x01. -/
theorem test_push_hl : stepThen ((at_ 0x0100 [0xE5]).setSp 0x8002)
    (fun t => t.sp == 0x8000 && memRead t 0x8000 == 0x4D && memRead t 0x8001 == 0x01) = true := by decide

/-- Section 2.5: PUSH AF: [0xFFFC]=0xB0, [0xFFFD]=0x01. -/
theorem test_push_af : stepThen (at_ 0x0100 [0xF5]) (fun t => memRead t 0xFFFC == 0xB0 && memRead t 0xFFFD == 0x01) = true := by
  decide

/-- Section 2.5: POP AF of 0xFF, 0x12: A=0x12, F=0xF0, the memory byte keeps its low nibble. -/
theorem test_pop_af :
    stepThen (((at_ 0x0100 [0xF1]).setSp 0xFFFC) |> fun s => s.setBus (placeBytes s.bus 0xFFFC [0xFF, 0x12]))
      (fun t => t.a == 0x12 && t.f == 0xF0 && t.sp == 0xFFFE && memRead t 0xFFFC == 0xFF) = true := by decide

/-- Section 2.5: POP BC with SP=0xDFFF, [0xDFFF]=0x01, [0xC000]=0x02 read through the echo: B=0x02, C=0x01, SP=0xE001. -/
theorem test_pop_bc_through_echo :
    stepThen (((at_ 0x0100 [0xC1]).setSp 0xDFFF) |> fun s =>
        s.setBus (busStore (busStore s.bus 0xDFFF 0x01) 0xC000 0x02))
      (fun t => t.b == 0x02 && t.c == 0x01 && t.sp == 0xE001) = true := by decide

/-- Section 2.6: 0x76 at 0x0100: UnimplementedOpcode(0x76), PC=0x0101 and nothing else, 0 cycles. -/
theorem test_unimplemented :
    faultOf (step (at_ 0x0100 [0x76])) = some (.unimplementedOpcode 0x76 ((at_ 0x0100 [0x76]).setPc 0x0101)) ∧
    (cpuStep (at_ 0x0100 [0x76])).1 = 0 := by decide

/-- Section 2.2: PC=0xA000 fetches 0xFF: UnimplementedOpcode(0xFF), PC=0xA001. -/
theorem test_unmapped_fetch :
    faultOf (step (State.reset.setPc 0xA000)) = some (.unimplementedOpcode 0xFF (State.reset.setPc 0xA001)) := by decide

/-! ## The bus and the host interface: vectors of 95_test_vectors.md sections 1 and 2.1 -/

/-- S1, S2: SetF(0x0F) gives 0x00; SetAF(0xABCD) gives AF=0xABC0. -/
theorem test_set_f : (State.reset.setF 0x0F).f = 0x00 ∧ (State.reset.setPair .af 0xABCD).pair .af = 0xABC0 := by decide

/-- S4: write(0xE123, 0x5A) is read at 0xE123 and 0xC123; write(0xDE00, 0x11) is not read at 0xFE00. -/
theorem test_echo :
    (nextOf (memWrite 0xE123 0x5A State.reset)).map (fun t => (memRead t 0xE123, memRead t 0xC123)) = some (0x5A, 0x5A) ∧
    (nextOf (memWrite 0xDE00 0x11 State.reset)).map (fun t => memRead t 0xFE00) = some 0xFF := by decide

/-- S5: load_rom([0xAA]); write(0x0000, 0x55) gives WriteToReadOnlyRegion(0x0000) and read(0x0000) stays 0xAA. -/
theorem test_rom_write : ((nextOf (loadRom [0xAA] State.reset)).bind fun t => faultOf (memWrite 0x0000 0x55 t)).map
    (fun f => memRead f.after 0x0000) = some 0xAA := by decide

/-- S6: read(0xFF0F) is 0xFF; write(0xFF00, 0x12) then read gives 0xFF. -/
theorem test_unmapped : memRead State.reset 0xFF0F = 0xFF ∧
    (nextOf (memWrite 0xFF00 0x12 State.reset)).map (fun t => memRead t 0xFF00) = some 0xFF := by decide

/-- Section 2.1: load_rom([1,2,3]); load_rom([9]): 9, 2, 3. -/
theorem test_load_rom_twice : ((nextOf (loadRom [1, 2, 3] State.reset)).bind fun t => nextOf (loadRom [9] t)).map
    (fun t => (memRead t 0, memRead t 1, memRead t 2)) = some (9, 2, 3) := by decide

/-- Section 2.1: write(0xFFFF, 0xE0) stores all eight bits of IE. -/
theorem test_ie : (nextOf (memWrite 0xFFFF 0xE0 State.reset)).map (fun t => memRead t 0xFFFF) = some 0xE0 := by decide

/-- Writing the zero fill removes the entry, so that equal memories are equal data. -/
theorem test_canonical : (nextOf (memWrite 0xC000 0x55 State.reset)).bind (fun t => nextOf (memWrite 0xE000 0x00 t)) =
    some State.reset := by decide

/-- A placed instruction is the first to run after reset: LD A,0x7F (section 2.2). -/
theorem test_with_fetch_word : stepThen (State.reset.withFetchWord 16 0x7F3E) (fun t => t.a == 0x7F && t.pc == 0x0102) = true := by
  decide

/-! ## Witnesses: the hypotheses of each obligation can be met, each clause at a boundary -/

/-- StepRunsDecoded, EncodeOfDecode: at reset the bytes at PC decode to NOP. -/
theorem witness_decode : decode [memRead State.reset State.reset.pc, memRead State.reset (State.reset.pc + 1),
    memRead State.reset (State.reset.pc + 2)] = .ok (.nop, [0x00, 0x00]) := by rfl

/-- DecodeOfEncode, LengthFixedByOpcode: well-formed instructions with one opcode byte. -/
theorem witness_wf : (Instr.ld_SP_nn 0xFFFF).wf = true ∧ (Instr.ld_SP_nn 0x0000).wf = true ∧
    (encode (.ld_SP_nn 0xFFFF)).head? = (encode (.ld_SP_nn 0x0000)).head? := by decide

/-- The word clauses of the load, jump and call statements. -/
theorem witness_word : (0x1234 : Word).toNat = 256 * (0x12 : Byte).toNat + (0x34 : Byte).toNat := by decide

/-- CallSubroutine, PushPair, PushAccumulatorAndFlags, PushedBytes: SP at both ends of each case. -/
theorem witness_push : PushAllowed 0x8002 ∧ PushAllowed 0x0000 ∧ PushAllowed 0xFFFF ∧ ¬ PushAllowed 0x0001 ∧
    ((0x8001 - 2 : Word)).toNat ≤ 0x7FFF ∧ ((0x0002 - 2 : Word)).toNat ≤ 0x7FFF ∧ State.reset.bus.mem.wf = true := by decide

/-- PushAccumulatorAndFlags, the clause under the invariant; FlagWritesMask, MemoryChangesOnlyByPushAndCall and
StackPointerAndPcMovers: executions that answer a next state. -/
theorem witness_push_af : MachineInv State.reset ∧ (nextOf (exec .push_AF State.reset)).isSome = true ∧
    ¬ Unmapped (State.reset.sp - 2) ∧ (nextOf (exec .nop State.reset)).isSome = true := by decide

/-- PopAccumulatorAndFlags: POP AF sets C where it was 0. -/
theorem witness_pop_af_sets_c : (((State.reset.setF 0x00).setSp 0xC000) |> fun s =>
    let u := s.setBus (busStore s.bus 0xC000 0x10)
    (u.flag .c, (nextOf (exec .pop_AF u)).map (fun t => t.flag .c))) = (false, some true) := by decide

/-- UnimplementedOpcodeStops, and the first case of StepFaultsExactly: an opcode byte outside R90 at PC. -/
theorem witness_unimplemented : implementedOpcode (memRead (State.reset.setPc 0xA000) 0xA000) = false := by decide

/-- AddressMapTotalUnique, BusReadResolves, BusWriteResolves: both ends of every row of the map. -/
theorem witness_map :
    ([0x0000, 0x7FFF, 0x8000, 0x9FFF, 0xA000, 0xBFFF, 0xC000, 0xDFFF, 0xE000, 0xFDFF, 0xFE00, 0xFF7F, 0xFF80, 0xFFFE,
      0xFFFF] : List Addr).map region =
    [.rom, .rom, .vram, .vram, .unmapped, .unmapped, .wram, .wram, .echo, .echo, .unmapped, .unmapped, .hram, .hram, .ie] := by
  decide

/-- BusWriteResolves, EchoReadsBack: a mapped address outside ROM, the write answering next, and an echo of it. -/
theorem witness_write : 0x7FFF < (0xC000 : Addr).toNat ∧ ¬ Unmapped 0xC000 ∧ SameByte 0xE000 0xC000 ∧ ¬ SameByte 0xDFFF 0xC000 ∧
    (nextOf (memWrite 0xC000 0x01 State.reset)).isSome = true ∧ Unmapped 0xA000 ∧ Unmapped 0xFF7F := by decide

/-- RomIsImmutable: a step that completes, a step that faults, and a host action that changes a ROM byte. -/
theorem witness_rom : (nextOf (step (at_ 0x0100 [0xC5]))).isSome = true ∧
    (faultOf (step ((at_ 0x0100 [0xC5]).setSp 0x8001))).isSome = true ∧
    (nextOf (hostAct (.loadRom [0x01]) State.reset)).map (fun t => memRead t 0x0000 != memRead State.reset 0x0000) = some true := by
  decide

/-- InterruptEnableIsInert: at reset the step touches no byte at 0xFFFF. -/
theorem witness_ie_untouched : ¬ StepTouches State.reset 0xFFFF := by
  have hf : (fetchInstr State.reset).1 = .nop := by decide
  rw [StepTouches, hf]
  rintro (⟨k, hk, h⟩ | ⟨h, -⟩ | ⟨h, -⟩)
  · have hk' : k = 0 := by simpa [Instr.length, encode] using hk
    subst hk'
    exact absurd h (by decide)
  · exact absurd h (by simp [ReadsStack])
  · exact absurd h (by simp [WritesMemory])

/-- FlagsChangeOnlyByFlagWriters: a completed execution of an instruction outside the flag table. -/
theorem witness_not_flag_writer : ¬ WritesFlags .ld_B_C ∧ (nextOf (exec .ld_B_C State.reset)).isSome = true := by
  constructor
  · simp [WritesFlags]
  · decide

/-- MemoryChangesOnlyByPushAndCall: a completed execution of an instruction that stores nothing. -/
theorem witness_not_memory_writer : ¬ WritesMemory .pop_BC ∧ (nextOf (exec .pop_BC State.reset)).isSome = true := by
  constructor
  · simp [WritesMemory]
  · decide

/-- StackPointerAndPcMovers: POP moves SP, JP moves PC. -/
theorem witness_movers : (nextOf (exec .pop_BC State.reset)).map (fun t => t.sp != State.reset.sp) = some true ∧
    (nextOf (exec (.jp_nn 0x0150) State.reset)).map (fun t => t.pc != State.reset.pc) = some true := by decide

/-- StepFaultsExactly: the low byte in ROM, and only the high byte in ROM. -/
theorem witness_faults : (faultOf (step ((at_ 0x0100 [0xF5]).setSp 0x8001))).isSome = true ∧
    (faultOf (step ((at_ 0x0100 [0xF5]).setSp 0x0001))).isSome = true := by decide

/-- RomTooLargeIsAtomic, LoadRomCopies, BootPlacesImage: images on both sides of the capacity. -/
theorem witness_images : 32768 < (List.replicate 32769 (0x11 : Byte)).length ∧
    (List.replicate 32768 (0x11 : Byte)).length ≤ 32768 ∧ ([] : List Byte).length ≤ 32768 := by
  simp only [List.length_replicate, List.length_nil]
  decide

/-- CycleCosts: an opcode of each row of R226 completes at reset, with its cost. -/
theorem witness_cycles : ([(0x00, 4), (0x06, 8), (0x3E, 8), (0x40, 4), (0x7F, 4), (0x6D, 4), (0x78, 4), (0x01, 12), (0x31, 12),
    (0x04, 4), (0x3C, 4), (0x05, 4), (0x3D, 4), (0xA8, 4), (0xAF, 4), (0xC3, 16), (0x18, 12), (0xCD, 24), (0xC9, 16), (0xC5, 16),
    (0xF5, 16), (0xC1, 12), (0xF1, 12)] : List (Byte × Nat)).all
      (fun p => (nextOf (step (at_ 0x0100 [p.1]))).isSome && (cpuStep (at_ 0x0100 [p.1])).1 == p.2) = true := by decide +kernel

/-- StepKeepsInvariant, HistoryKeepsInvariant, StepErrorEndsHistory: a history from reset that ends in a state. -/
theorem witness_history : MachineInv State.reset ∧ (nextOf (step State.reset)).isSome = true ∧
    (nextOf (runEvents [.host (.loadRom [0x76]), .step, .host (.write 0x0000 0x01), .host (.setFlag .c false), .step]
      State.reset)).isSome = true ∧
    (runUntil (fun s => s.pc == 0x0101) 5 State.reset).bind nextOf = some (State.reset.setPc 0x0101) := by decide

/-- StepErrorEndsHistory: a faulting step of a run whose end condition does not hold yet. -/
theorem witness_run_fault : (fun s : State => s.pc == 0x0102) (at_ 0x0100 [0x10]) = false ∧
    (faultOf (step (at_ 0x0100 [0x10]))).isSome = true := by decide

/-- CallThenReturn, PushThenPop: mapped stack bytes and completed pushes at the ends of HRAM and across regions. -/
theorem witness_stack : State.reset.bus.mem.wf = true ∧ ¬ Unmapped (State.reset.sp - 2) ∧ ¬ Unmapped (State.reset.sp - 1) ∧
    (nextOf (exec (.call_nn 0xC000) State.reset)).isSome = true ∧ (nextOf (exec .push_BC State.reset)).isSome = true ∧
    (nextOf (exec .push_DE State.reset)).isSome = true ∧ (nextOf (exec .push_HL (State.reset.setSp 0x0000))).isSome = true ∧
    (nextOf (exec .push_AF (State.reset.setSp 0xE001))).isSome = true ∧
    (∀ p ∈ [Pair.bc, .de, .hl, .af], (nextOf (exec (pushOf p) State.reset)).isSome = true) ∧ MachineInv State.reset := by decide

/-- UnmappedStackDiscards: stacks at both ends of unmapped space. -/
theorem witness_unmapped_stack : Unmapped ((0xA002 : Word) - 2) ∧ Unmapped ((0xA002 : Word) - 1) ∧ Unmapped (0xFE00 : Word) ∧
    Unmapped ((0xFF7E : Word) + 1) ∧ Unmapped (0xFF7E : Word) := by decide

/-- AdmittedOpcodes: an admitted byte and one that is not, at the ends of the set. -/
theorem witness_admitted : implementedOpcode 0x00 = true ∧ implementedOpcode 0xF5 = true ∧ implementedOpcode 0xFF = false := by
  decide

/-- PlacedInstructionRuns: a table word that decodes, from PC at reset and from PC in unmapped space. -/
theorem witness_placed : decodeTableWord 24 0xC000CD = some (.call_nn 0xC000) ∧ State.reset.bus.mem.wf = true ∧
    ((State.reset.setPc 0xFF7F).withFetchWord 24 0xC000CD).pc = 0x0100 := by decide

end Sys2Proof.Tests
end

section
/-!
PROOF. The register file and the flags: pair views, the masking write of F, the independence of the four flags, and the
construction state (10_state.md R22-R28, R35; 70_reset_and_hazards.md R210).
-/

namespace Sys2Proof.Machine

/-! ### The two bytes of a word as shifts and masks (00_scope.md R9, 10_state.md R25) -/

theorem hiByte_eq_shiftRight (w : Word) : hiByte w = (w >>> 8).setWidth 8 := by
  ext i
  simp [hiByte]

theorem loByte_eq_setWidth (w : Word) : loByte w = w.setWidth 8 :=
  (BitVec.setWidth_eq_extractLsb' (by omega)).symm

/-- A mask on the low byte is a mask on the word. -/
theorem loByte_and_setWidth (w m : Word) : loByte w &&& m.setWidth 8 = (w &&& m).setWidth 8 := by
  rw [loByte_eq_setWidth, BitVec.setWidth_and]

theorem loByte_eq_masked (w : Word) : loByte w = (w &&& 0xFF).setWidth 8 := by
  rw [← loByte_and_setWidth]
  exact BitVec.and_allOnes.symm

theorem concat_and (hi hi' lo lo' : Byte) : concat (hi &&& hi') (lo &&& lo') = concat hi lo &&& concat hi' lo' := by
  ext i h
  simp only [concat, BitVec.getElem_or, BitVec.getElem_and, BitVec.getElem_shiftLeft, BitVec.getElem_setWidth]
  by_cases hi8 : i < 8
  · simp [hi8]
  · simp [hi8, BitVec.getLsbD_of_ge _ i (Nat.le_of_not_lt hi8)]

/-- Clearing the low nibble of the low byte clears the low nibble of the word. -/
theorem concat_hiByte_masked (w : Word) : concat (hiByte w) (loByte w &&& 0xF0) = w &&& 0xFFF0 := by
  calc concat (hiByte w) (loByte w &&& 0xF0)
    _ = concat (hiByte w &&& 0xFF) (loByte w &&& 0xF0) := by rw [show hiByte w &&& 0xFF = hiByte w from BitVec.and_allOnes]
    _ = concat (hiByte w) (loByte w) &&& concat 0xFF 0xF0 := concat_and _ _ _ _
    _ = w &&& 0xFFF0 := by rw [concat_hiByte_loByte]; rfl

/-! ### Pair views (10_state.md R25, R26) -/

theorem highOf_setPair (p : Pair) (s : State) (w : Word) : highOf p (s.setPair p w) = hiByte w := by cases p <;> rfl

/-- The low byte is stored as it is, but for AF, where F is masked (10_state.md R24, R25). -/
theorem lowOf_setPair (p : Pair) (s : State) (w : Word) :
    lowOf p (s.setPair p w) = if p = .af then loByte w &&& 0xF0 else loByte w := by cases p <;> rfl

/-- A pair reads as last written, AF with its low nibble cleared (10_state.md R26). -/
theorem State.pair_setPair_same (p : Pair) (s : State) (w : Word) :
    (s.setPair p w).pair p = if p = .af then w &&& 0xFFF0 else w := by
  rw [pair_eq, highOf_setPair, lowOf_setPair]
  split
  · exact concat_hiByte_masked w
  · exact concat_hiByte_loByte w

/-- Settles O34: each pair is its two bytes, and AF its two bytes with the low one masked. -/
theorem pairViews : Obligations.PairViews := by
  refine ⟨fun s w => ?_, fun s a f => rfl⟩
  exact ⟨State.pair_setPair_same .bc s w, hiByte_eq_shiftRight w, loByte_eq_masked w,
    State.pair_setPair_same .de s w, hiByte_eq_shiftRight w, loByte_eq_masked w,
    State.pair_setPair_same .hl s w, hiByte_eq_shiftRight w, loByte_eq_masked w, State.pair_setPair_same .af s w⟩

/-! ### The masking write of F (10_state.md R24, R28) -/

/-- A completed execution either writes no flag, and F stays, or writes flags, and F's low nibble is 0 after it. -/
def FlagsEnd (i : Instr) (s : State) : Result → Prop
  | .next t => (¬ WritesFlags i ∧ t.f = s.f) ∨ (WritesFlags i ∧ FlagNibbleZero t)
  | .fault _ | .refused _ => True

/-- A push, with an update after it that leaves F alone. -/
theorem flagsEnd_push {i : Instr} (hi : ¬ WritesFlags i) (w : Word) (s : State) (k : State → State)
    (hk : ∀ t, (k t).f = t.f) : FlagsEnd i s (andThen (pushWord w s) fun t => .next (k t)) := by
  cases h : pushWord w s with
  | next t =>
    obtain ⟨-, rfl⟩ := pushWord_next h
    exact .inl ⟨hi, hk _⟩
  | fault f => trivial
  | refused r => trivial

theorem flagsEnd_pushWord {i : Instr} (hi : ¬ WritesFlags i) (w : Word) (s : State) : FlagsEnd i s (pushWord w s) := by
  have h := flagsEnd_push hi w s id fun _ => rfl
  cases hp : pushWord w s <;> simpa [hp] using h

/-- INC, DEC, XOR and POP AF end in a masked write of F; every other instruction leaves F alone (10_state.md R24, R28). -/
theorem exec_flagsEnd (i : Instr) (s : State) : FlagsEnd i s (exec i s) := by
  cases i
  case inc_B | inc_C | inc_D | inc_E | inc_H | inc_L | inc_A | dec_B | dec_C | dec_D | dec_E | dec_H | dec_L | dec_A |
      xor_B | xor_C | xor_D | xor_E | xor_H | xor_L | xor_A | pop_AF =>
    exact .inr ⟨by simp [WritesFlags], masked_low _⟩
  case push_BC | push_DE | push_HL | push_AF => exact flagsEnd_pushWord (by simp [WritesFlags]) _ _
  case call_nn nn => exact flagsEnd_push (by simp [WritesFlags]) _ _ (fun t => t.setPc nn) fun _ => rfl
  case unimplemented => trivial
  all_goals exact .inl ⟨by simp [WritesFlags], rfl⟩

theorem exec_f {i : Instr} {s t : State} (h : exec i s = .next t) :
    (¬ WritesFlags i ∧ t.f = s.f) ∨ (WritesFlags i ∧ FlagNibbleZero t) := by
  have hf := exec_flagsEnd i s
  rwa [h] at hf

/-- A flag update goes through the masking write. -/
theorem State.flagNibbleZero_setFlag (s : State) (x : Flag) (q : Bool) : FlagNibbleZero (s.setFlag x q) := masked_low _

/-- Settles O35: the four ways of writing F, the last one by the flag table of the instructions. -/
theorem flagWritesMask : Obligations.FlagWritesMask := by
  refine ⟨fun _ _ => rfl, fun _ w => loByte_and_setWidth w 0xF0, State.flagNibbleZero_setFlag, fun i s t h => ?_⟩
  obtain ⟨-, hf⟩ | ⟨-, hf⟩ := exec_f h
  · exact .inl hf
  · exact .inr hf

/-! ### The four flags (10_state.md R23, R27) -/

/-- The masking write of F keeps every flag bit. -/
theorem State.flag_setF (s : State) (v : Byte) (x : Flag) : (s.setF v).flag x = (v &&& flagMask x != 0) := by
  have hx : 0xF0 &&& flagMask x = flagMask x := by cases x <;> rfl
  rw [State.flag, State.setF_f, BitVec.and_assoc, hx]

theorem flagMask_and (x y : Flag) : flagMask x &&& flagMask y = if y = x then flagMask y else 0 := by
  cases x <;> cases y <;> rfl

theorem not_flagMask_and (x y : Flag) : ~~~ flagMask x &&& flagMask y = if y = x then 0 else flagMask y := by
  cases x <;> cases y <;> rfl

theorem flagMask_ne_zero (x : Flag) : flagMask x ≠ 0#8 := by cases x <;> decide

/-- A flag reads as last written; the others keep their value (10_state.md R27). -/
theorem State.flag_setFlag (s : State) (x y : Flag) (q : Bool) :
    (s.setFlag x q).flag y = if y = x then q else s.flag y := by
  rw [State.setFlag, State.flag_setF, State.flag]
  cases q with
  | true =>
    rw [if_pos rfl, BitVec.and_or_distrib_right, flagMask_and]
    by_cases hxy : y = x
    · simp [hxy, flagMask_ne_zero]
    · simp [hxy]
  | false =>
    rw [if_neg Bool.false_ne_true, BitVec.and_assoc, not_flagMask_and]
    by_cases hxy : y = x <;> simp [hxy]

/-- Settles O36: a flag write is a masked write of one bit of F. -/
theorem flagsAreIndependent : Obligations.FlagsAreIndependent := fun s x y q =>
  ⟨State.flag_setFlag s x y q, State.flagNibbleZero_setFlag s x q, rfl⟩

/-! ### The construction state (10_state.md R35, 70_reset_and_hazards.md R210) -/

/-- A bus with no byte stored and IE clear reads 0x00 wherever it is mapped. -/
theorem busRead_zeroFilled {x : Addr} (hx : ¬ Unmapped x) : busRead { mem := [], ie := 0x00 } x = 0x00 := by
  rw [← region_unmapped_iff] at hx
  unfold busRead
  cases hr : region x
  case unmapped => exact absurd hr hx
  all_goals rfl

/-- Settles O1: the registers by evaluation, memory by the zero fill. -/
theorem resetState : Obligations.ResetState :=
  ⟨rfl, rfl, rfl, rfl, rfl, rfl, rfl, rfl, rfl, rfl, rfl, rfl, rfl, rfl, rfl, rfl, rfl, rfl, rfl, rfl,
    fun _ => busRead_zeroFilled⟩

end Sys2Proof.Machine
end

section
/-!
PROOF. The memory bus: the address map, bus reads and writes, the echo, the protection of ROM and `load_rom`
(20_memory.md R51-R59, R71, R72).
-/

namespace Sys2Proof.Machine

/-! ### The address map (20_memory.md R51, R52) -/

/-- The rows of the address map (20_memory.md R51), each with its range. -/
def InRow : Region → Addr → Prop
  | .rom, x => x.toNat ≤ 0x7FFF
  | .vram, x => 0x8000 ≤ x.toNat ∧ x.toNat ≤ 0x9FFF
  | .wram, x => 0xC000 ≤ x.toNat ∧ x.toNat ≤ 0xDFFF
  | .echo, x => 0xE000 ≤ x.toNat ∧ x.toNat ≤ 0xFDFF
  | .hram, x => 0xFF80 ≤ x.toNat ∧ x.toNat ≤ 0xFFFE
  | .ie, x => x.toNat = 0xFFFF
  | .unmapped, x => Unmapped x

/-- The rows cover every address: each lies in the row of its class. -/
theorem inRow_region (x : Addr) : InRow (region x) x := by
  have hx := x.isLt
  simp only [region]
  split_ifs <;> simp only [InRow, Unmapped] <;> omega

/-- The rows are disjoint: an address lies in one row at most. -/
theorem inRow_unique {r r' : Region} {x : Addr} (h : InRow r x) (h' : InRow r' x) : r = r' := by
  cases r <;> cases r' <;> simp only [InRow, Unmapped, reduceCtorEq] at h h' ⊢ <;> omega

/-- An address has the class of the row it lies in, and no other (20_memory.md R52). -/
theorem region_eq_iff (x : Addr) (r : Region) : region x = r ↔ InRow r x :=
  ⟨fun h => h ▸ inRow_region x, inRow_unique (inRow_region x)⟩

/-- Settles O26: one row of the map for each class. -/
theorem addressMapTotalUnique : Obligations.AddressMapTotalUnique := fun x =>
  ⟨region_eq_iff x .rom, region_eq_iff x .vram, region_eq_iff x .wram, region_eq_iff x .echo, region_eq_iff x .hram,
    region_eq_iff x .ie, region_eq_iff x .unmapped⟩

/-! ### Bus reads (20_memory.md R53, R55) -/

/-- Everything a bus read can answer: open bus, the IE register, or the byte of the address's storage cell. -/
theorem busRead_eq (b : Bus) (x : Addr) :
    busRead b x = if Unmapped x then 0xFF else if x.toNat = 0xFFFF then b.ie else b.mem.read (cellOf x) := by
  simp only [← region_unmapped_iff, ← region_ie_iff]
  cases h : region x <;> simp [busRead, h, Config.openBus]

theorem busRead_ie (b : Bus) {x : Addr} (hx : x.toNat = 0xFFFF) : busRead b x = b.ie := by
  rw [busRead_eq, if_neg (by omega), if_pos hx]

/-- Outside the echo range a storage cell is keyed by its own address. -/
theorem busRead_stored (b : Bus) {x : Addr}
    (hx : x.toNat ≤ 0x9FFF ∨ (0xC000 ≤ x.toNat ∧ x.toNat ≤ 0xDFFF) ∨ (0xFF80 ≤ x.toNat ∧ x.toNat ≤ 0xFFFE)) :
    busRead b x = b.mem.read x.toNat := by
  rw [busRead_eq, if_neg (by omega), if_neg (by omega), cellOf_eq, if_neg (by omega)]

/-- An echo address reaches the byte 0x2000 below it (20_memory.md R53). -/
theorem sameByte_echo {x : Addr} (hlo : 0xE000 ≤ x.toNat) (hhi : x.toNat ≤ 0xFDFF) : SameByte x (x - 0x2000) :=
  .inr (.inl ⟨hlo, hhi, by bv_omega⟩)

theorem memRead_echo (s : State) {x : Addr} (hlo : 0xE000 ≤ x.toNat) (hhi : x.toNat ≤ 0xFDFF) :
    memRead s x = memRead s (x - 0x2000) :=
  busRead_congr (sameByte_echo hlo hhi) s.bus

theorem memRead_unmapped (s : State) {x : Addr} (hx : Unmapped x) : memRead s x = 0xFF :=
  busRead_unmapped (region_unmapped_iff.mpr hx)

/-- Settles O27: one law of the bus read for each kind of region. -/
theorem busReadResolves : Obligations.BusReadResolves := fun s _ =>
  ⟨memRead_echo s, busRead_ie s.bus, memRead_unmapped s, busRead_stored s.bus⟩

/-! ### Bus writes (20_memory.md R56, R59, R72) -/

theorem memWrite_rom {x : Addr} (v : Byte) (s : State) (hx : x.toNat ≤ 0x7FFF) :
    memWrite x v s = .fault (.writeToReadOnlyRegion x s) := by
  rw [memWrite_eq, if_pos hx]

theorem memWrite_of_not_rom {x : Addr} (v : Byte) (s : State) (hx : 0x7FFF < x.toNat) :
    memWrite x v s = .next (s.setBus (busStore s.bus x v)) := by
  rw [memWrite_eq, if_neg (Nat.not_le.mpr hx)]

theorem memWrite_unmapped {x : Addr} (v : Byte) (s : State) (hx : Unmapped x) : memWrite x v s = .next s := by
  rw [memWrite_of_not_rom v s (by omega), busStore_unmapped (region_unmapped_iff.mpr hx)]
  rfl

/-- Inversion of a bus write: if it answers next, the address is outside ROM and the byte is stored. -/
theorem memWrite_next {x : Addr} {v : Byte} {s t : State} (h : memWrite x v s = .next t) :
    0x7FFF < x.toNat ∧ t = s.setBus (busStore s.bus x v) := by
  rw [memWrite_eq] at h
  split_ifs at h with hx
  exact ⟨Nat.not_le.mp hx, (Host.Outcome.next.inj h).symm⟩

/-- Settles O28: ROM rejects, open bus discards, and a mapped address stores; IE holds what 0xFFFF then reads. -/
theorem busWriteResolves : Obligations.BusWriteResolves := by
  refine fun s x v => ⟨memWrite_rom v s, memWrite_unmapped v s, fun hrom hx hwf => ?_⟩
  have hsame (y : Addr) (hy : SameByte y x) : busRead (busStore s.bus x v) y = v := by
    rw [busRead_busStore_sameByte hwf hy, if_neg (by rwa [unmapped_congr hy])]
  refine ⟨_, memWrite_of_not_rom v s hrom, rfl, fun hie => ?_, hsame, fun y hy => busRead_busStore_other hy⟩
  exact (busRead_ie _ hie).symm.trans (hsame x (.inl rfl))

/-- Settles O29: the echo translation, the read after a completed write, and the success of every write outside ROM. -/
theorem echoReadsBack : Obligations.EchoReadsBack := by
  refine ⟨fun s x => memRead_echo s, fun s t x v hwf h => ?_, fun s x v hx => ⟨_, memWrite_of_not_rom v s hx⟩⟩
  obtain ⟨-, rfl⟩ := memWrite_next h
  exact busRead_busStore_sameByte hwf (.inl rfl)

/-- Settles O32: open bus on reads, discard on writes. -/
theorem absentDevicesReadOpenBus : Obligations.AbsentDevicesReadOpenBus := fun s _ v hx =>
  ⟨memRead_unmapped s hx, memWrite_unmapped v s hx⟩

/-! ### ROM is immutable (20_memory.md R57) -/

/-- A ROM byte has no alias, so storing outside ROM keeps it. -/
theorem busRead_busStore_rom {b : Bus} {x y : Addr} {v : Byte} (hx : x.toNat ≤ 0x7FFF) (hy : 0x7FFF < y.toNat) :
    busRead (busStore b y v) x = busRead b x := by
  refine busRead_busStore_other fun h => ?_
  obtain rfl | ⟨_, _, _⟩ | ⟨_, _, _⟩ := h <;> omega

theorem busRead_pushedBus_rom {w : Word} {s : State} {x : Addr} (hs : PushAllowed s.sp) (hx : x.toNat ≤ 0x7FFF) :
    busRead (pushedBus w s) x = busRead s.bus x := by
  obtain ⟨hlo, hhi⟩ := hs
  rw [pushedBus, busRead_busStore_rom hx hhi, busRead_busStore_rom hx hlo]

/-- A completed step leaves the bus alone or stores the two bytes of an allowed push. -/
theorem step_next_rom {s t : State} {x : Addr} (h : step s = .next t) (hx : x.toNat ≤ 0x7FFF) :
    memRead t x = memRead s x := by
  have he := step_ends s
  rw [h] at he
  obtain ⟨-, hbus⟩ | ⟨-, hsp, w, hbus⟩ := he
  · exact congrArg (busRead · x) hbus
  · exact (congrArg (busRead · x) hbus).trans (busRead_pushedBus_rom hsp hx)

/-- A failed push has stored at most its low byte, outside ROM (60_exceptions.md R182). -/
theorem pushWord_fault_rom {w : Word} {s : State} {f : Fault} {x : Addr} (h : pushWord w s = .fault f)
    (hx : x.toNat ≤ 0x7FFF) : memRead f.after x = memRead s x := by
  obtain ⟨-, rfl⟩ | ⟨hlo, -, rfl⟩ := pushWord_fault h
  · rfl
  · exact busRead_busStore_rom hx hlo

/-- A faulted step has stopped at the opcode or in a push. -/
theorem step_fault_rom {s : State} {f : Fault} {x : Addr} (h : step s = .fault f) (hx : x.toNat ≤ 0x7FFF) :
    memRead f.after x = memRead s x := by
  have he := step_ends s
  rw [h] at he
  obtain ⟨op, -, rfl⟩ | ⟨-, -, w, hw⟩ := he
  · rfl
  · exact (pushWord_fault_rom hw hx).trans (memRead_setPc s _ x)

/-- Inversion of a host action, by what it does to the bus: nothing, a bus write outside ROM, or `load_rom`. -/
theorem hostAct_next {act : HostAction} {s t : State} (h : hostAct act s = .next t) :
    t.bus = s.bus ∨ (∃ y v, act = .write y v ∧ 0x7FFF < y.toNat ∧ t = s.setBus (busStore s.bus y v)) ∨
      ∃ bytes, act = .loadRom bytes ∧ loadRom bytes s = .next t := by
  cases act
  case write y v => exact .inr (.inl ⟨y, v, rfl, memWrite_next h⟩)
  case loadRom bytes => exact .inr (.inr ⟨bytes, rfl, h⟩)
  all_goals
    cases Host.Outcome.next.inj h
    exact .inl (by simp)

/-- Settles O31: bus writes by `memWrite_rom`, steps by the ways an instruction can end, host actions by their inversion. -/
theorem romIsImmutable : Obligations.RomIsImmutable := by
  refine ⟨fun s x v => memWrite_rom v s, fun s t x => step_next_rom, fun s f x => step_fault_rom,
    fun act s t x h hx hne => ?_⟩
  obtain hbus | ⟨y, v, -, hy, rfl⟩ | ⟨bytes, hact, -⟩ := hostAct_next h
  · exact absurd (congrArg (busRead · x) hbus) hne
  · exact absurd (busRead_busStore_rom hx hy) hne
  · exact ⟨bytes, hact⟩

/-! ### `load_rom` (20_memory.md R71) -/

/-- No address past an image's end reaches a cell of the image: the echo mirrors Working RAM only. -/
theorem cellOf_lt_iff {n : Nat} (hn : n ≤ Config.romCapacity) (x : Addr) : cellOf x < n ↔ x.toNat < n := by
  rw [Config.romCapacity] at hn
  rw [cellOf_eq]
  split <;> omega

/-- What a bus reads after an image that fits is copied: the image, and every other byte as before. -/
theorem busRead_load {b : Bus} {bytes : List Byte} (hn : bytes.length ≤ Config.romCapacity) (hb : b.mem.wf = true)
    (x : Addr) :
    busRead { b with mem := b.mem.load 0 bytes } x =
      if h : x.toNat < bytes.length then bytes[x.toNat] else busRead b x := by
  have hcap : Config.romCapacity = 0x8000 := rfl
  split
  next hx =>
    rw [busRead_stored _ (by omega), Memory.read_load (isCell_rom hn) hb, dif_pos (by omega)]
    rfl
  next hx =>
    have hcell := mt (cellOf_lt_iff hn x).mp hx
    rw [busRead_eq, Memory.read_load (isCell_rom hn) hb, dif_neg (by omega), busRead_eq]

/-- Settles O43: an image over the capacity is rejected; one that fits is what memory then reads below its length. -/
theorem loadRomCopies : Obligations.LoadRomCopies := by
  refine ⟨fun bytes s => loadRom_tooLarge, fun bytes s hn hwf => ?_⟩
  refine ⟨_, loadRom_fits hn, rfl, rfl, fun k hk => ?_, fun x hx => ?_⟩
  · have hkNat : (BitVec.ofNat 16 k).toNat = k := Nat.mod_eq_of_lt (by omega)
    rw [memRead_setBus, busRead_load hn hwf]
    simp only [hkNat, hk, dif_pos]
  · rw [memRead_setBus, busRead_load hn hwf, dif_neg (Nat.not_lt.mpr hx), memRead]

end Sys2Proof.Machine
end

section
/-!
PROOF. NOP and the loads: the whole next state, the opcode and the cycle cost of each form (40_nop_and_loads.md R100-R103).
-/

namespace Sys2Proof.Machine

/-- Settles O9: NOP's arm of the dispatch, its table entry and its cost. -/
theorem nopDoesNothing : Obligations.NopDoesNothing := ⟨fun _ => rfl, decode_bare rfl [], rfl⟩

/-! ### Families of instructions, by the registers they name

A law of a family is proved once for every register. An obligation that lists the family's forms one by one is then
that law at each member of a list, in the order of the list. -/

/-- The seven registers, in the order the obligations list them. -/
def regs : List Reg := [.b, .c, .d, .e, .h, .l, .a]

/-- A law of every `x` gives the clauses for the members of a list, before whatever clauses follow. -/
theorem forall_and_clauses {α : Type} (l : List α) {P : α → Prop} {Q : Prop} (hP : ∀ x, P x) (hQ : Q) :
    l.foldr (fun x clauses => P x ∧ clauses) Q := by
  induction l with
  | nil => exact hQ
  | cons x l ih => exact ⟨hP x, ih⟩

/-! ### LD r,n (R101) -/

/-- LD r,n. -/
def loadByteOf (r : Reg) (n : Byte) : Instr :=
  match r with
  | .b => .ld_B_n n | .c => .ld_C_n n | .d => .ld_D_n n | .e => .ld_E_n n | .h => .ld_H_n n | .l => .ld_L_n n
  | .a => .ld_A_n n

theorem exec_loadByteOf (r : Reg) (n : Byte) (s : State) : exec (loadByteOf r n) s = .next (s.setReg r n) := by
  cases r <;> rfl

theorem decode_loadByteOf (r : Reg) (n : Byte) (rest : List Byte) :
    decode (opcodeLdRN r :: n :: rest) = .ok (loadByteOf r n, rest) :=
  decode_imm8 (k := loadByteOf r) (by cases r <;> rfl) n rest

theorem cycles_loadByteOf (r : Reg) (n : Byte) : cycles (loadByteOf r n) = 8 := by cases r <;> rfl

/-- Settles O10: the three laws of LD r,n at each register. -/
theorem loadImmediateByte : Obligations.LoadImmediateByte :=
  forall_and_clauses regs exec_loadByteOf <|
  forall_and_clauses regs (fun r n => decode_loadByteOf r n []) <|
  forall_and_clauses regs.dropLast cycles_loadByteOf (cycles_loadByteOf .a)

/-! ### LD r,r' (R102) -/

/-- LD dst,src. -/
def copyOf : Reg → Reg → Instr
  | .b, .b => .ld_B_B | .b, .c => .ld_B_C | .b, .d => .ld_B_D | .b, .e => .ld_B_E | .b, .h => .ld_B_H
  | .b, .l => .ld_B_L | .b, .a => .ld_B_A
  | .c, .b => .ld_C_B | .c, .c => .ld_C_C | .c, .d => .ld_C_D | .c, .e => .ld_C_E | .c, .h => .ld_C_H
  | .c, .l => .ld_C_L | .c, .a => .ld_C_A
  | .d, .b => .ld_D_B | .d, .c => .ld_D_C | .d, .d => .ld_D_D | .d, .e => .ld_D_E | .d, .h => .ld_D_H
  | .d, .l => .ld_D_L | .d, .a => .ld_D_A
  | .e, .b => .ld_E_B | .e, .c => .ld_E_C | .e, .d => .ld_E_D | .e, .e => .ld_E_E | .e, .h => .ld_E_H
  | .e, .l => .ld_E_L | .e, .a => .ld_E_A
  | .h, .b => .ld_H_B | .h, .c => .ld_H_C | .h, .d => .ld_H_D | .h, .e => .ld_H_E | .h, .h => .ld_H_H
  | .h, .l => .ld_H_L | .h, .a => .ld_H_A
  | .l, .b => .ld_L_B | .l, .c => .ld_L_C | .l, .d => .ld_L_D | .l, .e => .ld_L_E | .l, .h => .ld_L_H
  | .l, .l => .ld_L_L | .l, .a => .ld_L_A
  | .a, .b => .ld_A_B | .a, .c => .ld_A_C | .a, .d => .ld_A_D | .a, .e => .ld_A_E | .a, .h => .ld_A_H
  | .a, .l => .ld_A_L | .a, .a => .ld_A_A

theorem exec_copyOf (dst src : Reg) (s : State) : exec (copyOf dst src) s = .next (s.setReg dst (s.reg src)) := by
  cases dst <;> cases src <;> rfl

theorem decode_copyOf (dst src : Reg) (rest : List Byte) :
    decode (opcodeLdRR dst src :: rest) = .ok (copyOf dst src, rest) :=
  decode_bare (by cases dst <;> cases src <;> rfl) rest

theorem cycles_copyOf (dst src : Reg) : cycles (copyOf dst src) = 4 := by cases dst <;> cases src <;> rfl

/-- The 49 (destination, source) pairs, destination first, in the order the obligation lists them. -/
def regPairs : List (Reg × Reg) := regs.product regs

/-- Settles O11: the three laws of LD r,r' at each pair of registers. -/
theorem copyRegister : Obligations.CopyRegister :=
  forall_and_clauses regPairs (fun p => exec_copyOf p.1 p.2) <|
  forall_and_clauses regPairs (fun p => decode_copyOf p.1 p.2 []) <|
  forall_and_clauses regPairs.dropLast (fun p => cycles_copyOf p.1 p.2) (cycles_copyOf .a .a)

/-! ### LD rr,nn (R103) -/

theorem hiByte_eq_ofNat (w : Word) : hiByte w = BitVec.ofNat 8 (w.toNat / 256) := by
  rw [hiByte, BitVec.extractLsb', Nat.shiftRight_eq_div_pow]

theorem loByte_eq_ofNat (w : Word) : loByte w = BitVec.ofNat 8 w.toNat := rfl

/-- An immediate word stands low byte first in the stream (30_encoding.md R85). -/
theorem decode_imm16_of_toNat {op lo hi : Byte} {k : Word → Instr} {nn : Word} (h : opcodeEntry op = .imm16 k)
    (hnn : nn.toNat = 256 * hi.toNat + lo.toNat) : decode [op, lo, hi] = .ok (k nn, []) := by
  rw [decode_imm16 h, show concat hi lo = nn from BitVec.eq_of_toNat_eq (by rw [concat_toNat, hnn])]

/-- Settles O12: each load writes the two bytes of the word, here as numbers, to the two registers of its pair. -/
theorem loadPairImmediate : Obligations.LoadPairImmediate := by
  refine ⟨fun nn s => ?_, fun nn s => ?_, fun nn s => ?_, fun _ _ _ => decode_imm16_of_toNat rfl,
    fun _ _ _ => decode_imm16_of_toNat rfl, fun _ _ _ => decode_imm16_of_toNat rfl,
    fun _ => rfl, fun _ => rfl, fun _ => rfl⟩
  all_goals
    rw [← hiByte_eq_ofNat, ← loByte_eq_ofNat]
    rfl

end Sys2Proof.Machine
end

section
/-!
PROOF. The 8-bit ALU instructions: the whole next state, the opcode and the cycle cost of INC, DEC and XOR at each
register (41_alu8.md R121-R123).
-/

namespace Sys2Proof.Machine

/-! ### INC r (R121) -/

/-- INC r. -/
def incOf : Reg → Instr
  | .b => .inc_B | .c => .inc_C | .d => .inc_D | .e => .inc_E | .h => .inc_H | .l => .inc_L | .a => .inc_A

/-- Everything the shared INC does: the register and F change, and nothing else. -/
theorem incReg_eq (r : Reg) (s : State) :
    incReg r s = .next { s.setReg r (s.reg r + 1) with f := incF s.f (s.reg r) } := by
  rw [incReg, setFlags_inc, State.setReg_f]

theorem exec_incOf (r : Reg) (s : State) :
    exec (incOf r) s = .next { s.setReg r (s.reg r + 1) with f := incF s.f (s.reg r) } :=
  calc exec (incOf r) s
    _ = incReg r s := by cases r <;> rfl
    _ = _ := incReg_eq r s

theorem decode_incOf (r : Reg) (rest : List Byte) : decode (opcodeInc r :: rest) = .ok (incOf r, rest) :=
  decode_bare (by cases r <;> rfl) rest

theorem cycles_incOf (r : Reg) : cycles (incOf r) = 4 := by cases r <;> rfl

/-- Settles O14: the three laws of INC r at each register. -/
theorem incrementRegister : Obligations.IncrementRegister :=
  forall_and_clauses regs exec_incOf <|
  forall_and_clauses regs (fun r => decode_incOf r []) <|
  forall_and_clauses regs.dropLast cycles_incOf (cycles_incOf .a)

/-! ### DEC r (R122) -/

/-- DEC r. -/
def decOf : Reg → Instr
  | .b => .dec_B | .c => .dec_C | .d => .dec_D | .e => .dec_E | .h => .dec_H | .l => .dec_L | .a => .dec_A

/-- Everything the shared DEC does: the register and F change, and nothing else. -/
theorem decReg_eq (r : Reg) (s : State) :
    decReg r s = .next { s.setReg r (s.reg r - 1) with f := decF s.f (s.reg r) } := by
  rw [decReg, setFlags_dec, State.setReg_f]

theorem exec_decOf (r : Reg) (s : State) :
    exec (decOf r) s = .next { s.setReg r (s.reg r - 1) with f := decF s.f (s.reg r) } :=
  calc exec (decOf r) s
    _ = decReg r s := by cases r <;> rfl
    _ = _ := decReg_eq r s

theorem decode_decOf (r : Reg) (rest : List Byte) : decode (opcodeDec r :: rest) = .ok (decOf r, rest) :=
  decode_bare (by cases r <;> rfl) rest

theorem cycles_decOf (r : Reg) : cycles (decOf r) = 4 := by cases r <;> rfl

/-- Settles O15: the three laws of DEC r at each register. -/
theorem decrementRegister : Obligations.DecrementRegister :=
  forall_and_clauses regs exec_decOf <|
  forall_and_clauses regs (fun r => decode_decOf r []) <|
  forall_and_clauses regs.dropLast cycles_decOf (cycles_decOf .a)

/-! ### XOR r (R123) -/

/-- XOR r. -/
def xorOf : Reg → Instr
  | .b => .xor_B | .c => .xor_C | .d => .xor_D | .e => .xor_E | .h => .xor_H | .l => .xor_L | .a => .xor_A

/-- Everything the shared XOR does: A and F change, and nothing else. -/
theorem xorReg_eq (src : Reg) (s : State) :
    xorReg src s = .next { s with a := s.a ^^^ s.reg src, f := xorF (s.a ^^^ s.reg src) } := by
  rw [xorReg, setF_xorFlags]
  rfl

theorem exec_xorOf (src : Reg) (s : State) :
    exec (xorOf src) s = .next { s with a := s.a ^^^ s.reg src, f := xorF (s.a ^^^ s.reg src) } :=
  calc exec (xorOf src) s
    _ = xorReg src s := by cases src <;> rfl
    _ = _ := xorReg_eq src s

/-- XOR A clears A and sets Z alone, whatever the state before. -/
theorem exec_xor_A (s : State) : exec .xor_A s = .next { s with a := 0x00, f := 0x80 } := by
  have h : s.a ^^^ s.reg .a = 0x00 := BitVec.xor_self
  calc exec .xor_A s
    _ = .next { s with a := s.a ^^^ s.reg .a, f := xorF (s.a ^^^ s.reg .a) } := exec_xorOf .a s
    _ = .next { s with a := 0x00, f := xorF 0x00 } := by rw [h]

theorem decode_xorOf (src : Reg) (rest : List Byte) : decode (opcodeXor src :: rest) = .ok (xorOf src, rest) :=
  decode_bare (by cases src <;> rfl) rest

theorem cycles_xorOf (src : Reg) : cycles (xorOf src) = 4 := by cases src <;> rfl

/-- Settles O16: the three laws of XOR r at each source, and XOR A from every state. -/
theorem exclusiveOr : Obligations.ExclusiveOr :=
  forall_and_clauses regs exec_xorOf <| .intro exec_xor_A <|
  forall_and_clauses regs (fun r => decode_xorOf r []) <|
  forall_and_clauses regs.dropLast cycles_xorOf (cycles_xorOf .a)

end Sys2Proof.Machine
end

section
/-!
PROOF. JP, JR and RET: the whole next state, the opcode and the cycle cost (42_control.md R140, R141, R143).
-/

namespace Sys2Proof.Machine

/-! ### JP nn (R140) -/

/-- Settles O17: JP's arm of the dispatch writes PC alone, and its operand stands low byte first. -/
theorem jumpAbsolute : Obligations.JumpAbsolute :=
  ⟨fun _ _ => rfl, fun _ _ _ => decode_imm16_of_toNat rfl, fun _ => rfl⟩

/-! ### JR e (R141) -/

/-- Adding the sign-extended byte to a word is adding its signed value modulo 2^16 (00_scope.md R10). -/
theorem add_sext16 (w : Word) (e : Byte) : w + sext16 e = BitVec.ofInt 16 ((w.toNat : Int) + e.toInt) :=
  calc w + sext16 e
    _ = BitVec.ofInt 16 w.toNat + BitVec.ofInt 16 e.toInt := by rw [BitVec.ofInt_natCast, BitVec.ofNat_toNat,
        BitVec.setWidth_eq, sext16, BitVec.signExtend]
    _ = BitVec.ofInt 16 (w.toNat + e.toInt) := (BitVec.ofInt_add _ _).symm

theorem exec_jr_e (e : Byte) (s : State) : exec (.jr_e e) s = .next { s with pc := s.pc + sext16 e } := rfl

/-- Settles O18: JR writes PC alone, and the sum it writes is the signed one. -/
theorem jumpRelative : Obligations.JumpRelative := by
  refine ⟨fun e s => ?_, fun e => decode_imm8 rfl e [], fun _ => rfl⟩
  rw [exec_jr_e, add_sext16]

/-! ### RET (R143) -/

theorem concat_eq_ofNat (hi lo : Byte) : concat hi lo = BitVec.ofNat 16 (256 * hi.toNat + lo.toNat) := by
  rw [← concat_toNat, BitVec.ofNat_toNat, BitVec.setWidth_eq]

theorem exec_ret (s : State) :
    exec .ret s = .next { s with sp := s.sp + 2, pc := concat (memRead s (s.sp + 1)) (memRead s s.sp) } := rfl

/-- Settles O20: RET writes SP and PC alone, and the word it pops is here the number its two bytes make. -/
theorem returnFromSubroutine : Obligations.ReturnFromSubroutine := by
  refine ⟨fun s => ?_, decode_bare rfl [], rfl⟩
  rw [exec_ret, concat_eq_ofNat]

end Sys2Proof.Machine
end

section
/-!
PROOF. POP: the whole next state, the opcode and the cycle cost, and that POP AF alone can set C (43_stack.md R163, R164).
-/

namespace Sys2Proof.Machine

/-! ### POP qq (R163, R164) -/

/-- Everything POP does is the pop's SP and the write of the pair, high byte from SP+1 and low byte from SP. -/
theorem exec_popOf_of_setPair {p : Pair} {s t : State}
    (h : (s.setSp (s.sp + 2)).setPair p (concat (memRead s (s.sp + 1)) (memRead s s.sp)) = t) :
    exec (popOf p) s = .next t := by
  rw [exec_popOf, popWord_fst, popWord_snd, h]

theorem decode_popOf (p : Pair) (rest : List Byte) : decode (opcodePop p :: rest) = .ok (popOf p, rest) :=
  decode_bare (by cases p <;> rfl) rest

theorem cycles_popOf (p : Pair) : cycles (popOf p) = 12 := by cases p <;> rfl

/-- Settles O23: the laws of POP at BC, DE and HL. (The model's shared POP already has the name `popPair`.) -/
theorem popPair_bc_de_hl : Obligations.PopPair :=
  ⟨fun _ => exec_popOf_of_setPair (State.setPair_bc_concat _ _ _),
    fun _ => exec_popOf_of_setPair (State.setPair_de_concat _ _ _),
    fun _ => exec_popOf_of_setPair (State.setPair_hl_concat _ _ _),
    decode_popOf .bc [], decode_popOf .de [], decode_popOf .hl [], cycles_popOf .bc, cycles_popOf .de, cycles_popOf .hl⟩

/-! ### C after an instruction other than POP AF (10_state.md R28, 43_stack.md R164) -/

/-- The rows of the flag table, by family. -/
theorem writesFlags_cases {i : Instr} (h : WritesFlags i) :
    (∃ r, i = incOf r) ∨ (∃ r, i = decOf r) ∨ (∃ r, i = xorOf r) ∨ i = .pop_AF := by
  change i ∈ regs.map incOf ++ (regs.map decOf ++ (regs.map xorOf ++ [.pop_AF])) at h
  simp only [List.mem_append, List.mem_map, List.mem_singleton] at h
  obtain ⟨r, -, rfl⟩ | ⟨r, -, rfl⟩ | ⟨r, -, rfl⟩ | rfl := h
  · exact .inl ⟨r, rfl⟩
  · exact .inr (.inl ⟨r, rfl⟩)
  · exact .inr (.inr (.inl ⟨r, rfl⟩))
  · exact .inr (.inr (.inr rfl))

theorem incF_and_carryMask (f v : Byte) : incF f v &&& flagMask .c = f &&& flagMask .c := by
  unfold incF
  split_ifs <;> simp [flagMask, BitVec.and_or_distrib_right, BitVec.and_assoc]

theorem decF_and_carryMask (f v : Byte) : decF f v &&& flagMask .c = f &&& flagMask .c := by
  unfold decF
  split_ifs <;> simp [flagMask, BitVec.and_or_distrib_right, BitVec.and_assoc]

theorem xorF_and_carryMask (v : Byte) : xorF v &&& flagMask .c = 0 := by
  unfold xorF
  split_ifs <;> rfl

/-- Of the flag writers other than POP AF, INC and DEC keep C and XOR clears it. -/
theorem exec_carry {i : Instr} {s t : State} (h : exec i s = .next t) (hi : i ≠ .pop_AF) :
    t.flag .c = s.flag .c ∨ t.flag .c = false := by
  simp only [State.flag]
  obtain ⟨-, hf⟩ | ⟨hw, -⟩ := exec_f h
  · rw [hf]
    exact .inl rfl
  obtain ⟨r, rfl⟩ | ⟨r, rfl⟩ | ⟨r, rfl⟩ | rfl := writesFlags_cases hw
  · cases (exec_incOf r s).symm.trans h
    rw [incF_and_carryMask]
    exact .inl rfl
  · cases (exec_decOf r s).symm.trans h
    rw [decF_and_carryMask]
    exact .inl rfl
  · cases (exec_xorOf r s).symm.trans h
    rw [xorF_and_carryMask]
    exact .inr rfl
  · exact absurd rfl hi

/-- Settles O24: the laws of POP at AF, and what any other instruction does to C. -/
theorem popAccumulatorAndFlags : Obligations.PopAccumulatorAndFlags := by
  refine ⟨fun _ => exec_popOf_of_setPair (State.setPair_af_concat _ _ _), fun i s t h hs ht => ?_,
    decode_popOf .af [], cycles_popOf .af⟩
  by_contra hi
  obtain hc | hc := exec_carry h hi <;> simp [hc, hs] at ht

end Sys2Proof.Machine
end

section
/-!
PROOF. The errors and the interrupt-enable register: the unimplemented opcode, the image over the capacity, and that IE is a
stored byte with no effect inside the block (60_exceptions.md R183, R184, R190).
-/

namespace Sys2Proof.Machine

/-! ### The state with another IE byte -/

@[simp] theorem withIe_sp (v : Byte) (s : State) : (withIe v s).sp = s.sp := rfl
@[simp] theorem withIe_pc (v : Byte) (s : State) : (withIe v s).pc = s.pc := rfl
@[simp] theorem withIe_pair (v : Byte) (s : State) (p : Pair) : (withIe v s).pair p = s.pair p := by cases p <;> rfl

/-! ### IE on the bus (20_memory.md R55, R56) -/

theorem region_ne_ie {x : Addr} (hx : x ≠ 0xFFFF) : region x ≠ .ie := fun h =>
  hx (BitVec.eq_of_toNat_eq (region_ie_iff.mp h))

/-- A read of any other address does not see IE. -/
theorem memRead_withIe {x : Addr} (hx : x ≠ 0xFFFF) (v : Byte) (s : State) : memRead (withIe v s) x = memRead s x := by
  have hie : x.toNat ≠ 0xFFFF := mt region_ie_iff.mpr (region_ne_ie hx)
  simp only [memRead, busRead_eq, if_neg hie, withIe]

/-- A byte stored at any other address leaves IE, and where it lands does not depend on IE. -/
theorem busStore_withIe {x : Addr} (hx : x ≠ 0xFFFF) (v w : Byte) (b : Bus) :
    busStore { b with ie := v } x w = { busStore b x w with ie := v } := by
  unfold busStore
  cases h : region x
  case ie => exact absurd h (region_ne_ie hx)
  all_goals rfl

theorem memWrite_ie (v : Byte) (s : State) : memWrite 0xFFFF v s = .next (withIe v s) := rfl

/-! ### Results up to a difference in IE (60_exceptions.md R190) -/

theorem memWrite_withIe {x : Addr} (hx : x ≠ 0xFFFF) (v w : Byte) (s : State) :
    memWrite x w (withIe v s) = mapState (withIe v) (memWrite x w s) := by
  have hbus : busStore (withIe v s).bus x w = { busStore s.bus x w with ie := v } := busStore_withIe hx v w s.bus
  rw [memWrite_eq, memWrite_eq, hbus]
  split <;> rfl

/-- If an operation and what follows it each respect a change of the state, so does the sequence. -/
theorem andThen_of_mapState {g : State → State} {r r' : Result} {k : State → Result} (hr : r' = mapState g r)
    (hk : ∀ t, r = .next t → k (g t) = mapState g (k t)) : andThen r' k = mapState g (andThen r k) := by
  subst hr
  cases r with
  | next t => exact hk t rfl
  | fault f => cases f <;> rfl
  | refused r => rfl

/-- A push that stores no byte at 0xFFFF. -/
theorem pushWord_withIe {s : State} (hlo : s.sp - 2 ≠ 0xFFFF) (hhi : s.sp - 1 ≠ 0xFFFF) (v : Byte) (w : Word) :
    pushWord w (withIe v s) = mapState (withIe v) (pushWord w s) := by
  refine andThen_of_mapState (memWrite_withIe hlo v _ (s.setSp (s.sp - 2))) fun t ht => ?_
  obtain ⟨-, rfl⟩ := memWrite_next ht
  refine memWrite_withIe ?_ v _ _
  rwa [withIe_sp, State.setBus_sp, State.setSp_sp, sp_sub_two_add_one]

/-- A pop that reads no byte at 0xFFFF. -/
theorem popWord_withIe {s : State} (hlo : s.sp ≠ 0xFFFF) (hhi : s.sp + 1 ≠ 0xFFFF) (v : Byte) :
    popWord (withIe v s) = ((popWord s).1, withIe v (popWord s).2) := by
  rw [popWord, withIe_sp, memRead_withIe hlo, memRead_withIe hhi]
  rfl

theorem exec_popOf_withIe {s : State} (hlo : s.sp ≠ 0xFFFF) (hhi : s.sp + 1 ≠ 0xFFFF) (v : Byte) (p : Pair) :
    exec (popOf p) (withIe v s) = mapState (withIe v) (exec (popOf p) s) := by
  rw [exec_popOf, exec_popOf, popWord_withIe hlo hhi]
  cases p <;> rfl

theorem exec_pushOf_withIe {s : State} (hlo : s.sp - 2 ≠ 0xFFFF) (hhi : s.sp - 1 ≠ 0xFFFF) (v : Byte) (p : Pair) :
    exec (pushOf p) (withIe v s) = mapState (withIe v) (exec (pushOf p) s) := by
  rw [exec_pushOf, exec_pushOf, withIe_pair, pushWord_withIe hlo hhi]

theorem exec_ret_withIe {s : State} (hlo : s.sp ≠ 0xFFFF) (hhi : s.sp + 1 ≠ 0xFFFF) (v : Byte) :
    exec .ret (withIe v s) = mapState (withIe v) (exec .ret s) := by
  rw [exec_ret, withIe_sp, memRead_withIe hlo, memRead_withIe hhi]
  rfl

theorem exec_call_nn_withIe {s : State} (hlo : s.sp - 2 ≠ 0xFFFF) (hhi : s.sp - 1 ≠ 0xFFFF) (v : Byte) (nn : Word) :
    exec (.call_nn nn) (withIe v s) = mapState (withIe v) (exec (.call_nn nn) s) :=
  andThen_of_mapState (pushWord_withIe hlo hhi v s.pc) fun _ _ => rfl

/-- An execution that stacks nothing at 0xFFFF: only the stack instructions reach the bus, and they keep to the laws above. -/
theorem exec_withIe {i : Instr} {s : State} (hread : ReadsStack i → s.sp ≠ 0xFFFF ∧ s.sp + 1 ≠ 0xFFFF)
    (hwrite : WritesMemory i → s.sp - 2 ≠ 0xFFFF ∧ s.sp - 1 ≠ 0xFFFF) (v : Byte) :
    exec i (withIe v s) = mapState (withIe v) (exec i s) := by
  by_cases hr : ReadsStack i
  · obtain ⟨hlo, hhi⟩ := hread hr
    obtain rfl | rfl | rfl | rfl | rfl := hr
    · exact exec_popOf_withIe hlo hhi v .bc
    · exact exec_popOf_withIe hlo hhi v .de
    · exact exec_popOf_withIe hlo hhi v .hl
    · exact exec_popOf_withIe hlo hhi v .af
    · exact exec_ret_withIe hlo hhi v
  by_cases hw : WritesMemory i
  · obtain ⟨hlo, hhi⟩ := hwrite hw
    obtain rfl | rfl | rfl | rfl | ⟨nn, rfl⟩ := hw
    · exact exec_pushOf_withIe hlo hhi v .bc
    · exact exec_pushOf_withIe hlo hhi v .de
    · exact exec_pushOf_withIe hlo hhi v .hl
    · exact exec_pushOf_withIe hlo hhi v .af
    · exact exec_call_nn_withIe hlo hhi v nn
  cases i
  case pop_BC | pop_DE | pop_HL | pop_AF | ret => exact absurd (by simp [ReadsStack]) hr
  case push_BC | push_DE | push_HL | push_AF | call_nn => exact absurd (by simp [WritesMemory]) hw
  all_goals rfl

/-! ### The fetch (30_encoding.md R82, R86) -/

/-- How many bytes an instruction of the table entry has: the opcode and its operand bytes (30_encoding.md R86). -/
def entryLength : OpcodeEntry → Nat
  | .bare _ => 1
  | .imm8 _ => 2
  | .imm16 _ => 3

/-- The instruction fetched is as long as the table entry of its opcode byte says. -/
theorem length_fetchInstr (s : State) : (fetchInstr s).1.length = entryLength (opcodeEntry (memRead s s.pc)) := by
  have henc := opcodeEntry_encodes (memRead s s.pc)
  rw [fetchInstr_eq]
  cases he : opcodeEntry (memRead s s.pc) <;> rw [he] at henc
  case bare i => exact congrArg List.length henc.1
  case imm8 k => exact congrArg List.length (henc _).1
  case imm16 k => exact congrArg List.length (henc _).1

/-- A fetch that reads no byte at 0xFFFF gives the same instruction. -/
theorem fetchInstr_withIe {s : State} (h : ∀ k < (fetchInstr s).1.length, s.pc + BitVec.ofNat 16 k ≠ 0xFFFF) (v : Byte) :
    fetchInstr (withIe v s) = ((fetchInstr s).1, withIe v (fetchInstr s).2) := by
  rw [length_fetchInstr] at h
  have hread {k : Nat} (hk : k < entryLength (opcodeEntry (memRead s s.pc))) :
      memRead (withIe v s) (s.pc + BitVec.ofNat 16 k) = memRead s (s.pc + BitVec.ofNat 16 k) :=
    memRead_withIe (h k hk) v s
  have hop : memRead (withIe v s) s.pc = memRead s s.pc := by
    have hpos : 0 < entryLength (opcodeEntry (memRead s s.pc)) := by
      cases opcodeEntry (memRead s s.pc) <;> exact Nat.succ_pos _
    simpa using hread hpos
  rw [fetchInstr_eq, fetchInstr_eq s, withIe_pc, hop]
  cases he : opcodeEntry (memRead s s.pc) <;> rw [he] at hread
  case bare i => rfl
  case imm8 k =>
    have h₁ : memRead (withIe v s) (s.pc + 1) = memRead s (s.pc + 1) := hread (k := 1) (by simp [entryLength])
    simp only [h₁]
    rfl
  case imm16 k =>
    have h₁ : memRead (withIe v s) (s.pc + 1) = memRead s (s.pc + 1) := hread (k := 1) (by simp [entryLength])
    have h₂ : memRead (withIe v s) (s.pc + 2) = memRead s (s.pc + 2) := hread (k := 2) (by simp [entryLength])
    simp only [h₁, h₂]
    rfl

/-- Settles O33: IE is what 0xFFFF reads and a write there stores, and neither the fetch nor the execution sees it. -/
theorem interruptEnableIsInert : Obligations.InterruptEnableIsInert := by
  refine ⟨rfl, fun s => busRead_ie s.bus rfl, fun s v => memWrite_ie v s, fun s v h => ?_⟩
  simp only [StepTouches, not_or, not_exists, not_and] at h
  obtain ⟨hfetch, hread, hwrite⟩ := h
  rw [step, step, fetchInstr_withIe hfetch, fetchInstr_snd]
  exact exec_withIe (s := s.setPc (fetchInstr s).2.pc) hread hwrite v

/-! ### The errors (60_exceptions.md R183, R184) -/

/-- Settles O25: the fetch gives the unimplemented instruction with PC one further, and its execution is the fault. -/
theorem unimplementedOpcodeStops : Obligations.UnimplementedOpcodeStops := by
  refine ⟨fun s h => ?_, fun _ _ => rfl⟩
  have hstep : step s = .fault (.unimplementedOpcode (memRead s s.pc) { s with pc := s.pc + 1 }) := by
    rw [step, fetchInstr_eq, (opcodeEntry_unimplemented_iff _).mpr h]
    rfl
  exact ⟨hstep, by rw [cpuStep_fault hstep]⟩

/-- Settles O42: `load_rom` checks the capacity first, and a step faults at its opcode or in a push only. -/
theorem romTooLargeIsAtomic : Obligations.RomTooLargeIsAtomic := by
  refine ⟨fun bytes s => loadRom_tooLarge, fun s n k t h => ?_⟩
  have he := step_ends s
  rw [h] at he
  obtain ⟨op, -, hf⟩ | ⟨-, -, w, hw⟩ := he
  · cases hf
  · obtain ⟨-, hf⟩ | ⟨-, -, hf⟩ := pushWord_fault hw <;> cases hf

end Sys2Proof.Machine
end

section
/-!
PROOF. The encoding: decoder and encoder undo each other, exactly the admitted bytes decode to an instruction, and the
opcode byte fixes the length (30_encoding.md R83, R86, R89-R91).
-/

namespace Sys2Proof.Machine

/-! ### Decoding an encoding -/

/-- Settles O5: by the kind of the table entry that gives the instruction. -/
theorem decodeOfEncode : Obligations.DecodeOfEncode := by
  intro i rest hi
  obtain ⟨op, ⟨hop, henc⟩ | ⟨k, n, hop, rfl, henc⟩ | ⟨k, nn, hop, rfl, henc⟩⟩ := opcodeEntry_of_encode i hi
  · rw [henc]
    exact decode_bare hop rest
  · rw [henc]
    exact decode_imm8 hop n rest
  · have hdec := decode_imm16 hop (loByte nn) (hiByte nn) rest
    rw [concat_hiByte_loByte] at hdec
    rw [henc]
    exact hdec

/-! ### Encoding what was decoded -/

/-- Everything a decode that answers can have read, by the kind of the opcode byte's table entry. -/
theorem decode_cases {bytes rest : List Byte} {i : Instr} (h : decode bytes = .ok (i, rest)) :
    ∃ op, (opcodeEntry op = .bare i ∧ bytes = op :: rest) ∨
      (∃ k n, opcodeEntry op = .imm8 k ∧ i = k n ∧ bytes = op :: n :: rest) ∨
      ∃ k lo hi, opcodeEntry op = .imm16 k ∧ i = k (concat hi lo) ∧ bytes = op :: lo :: hi :: rest := by
  cases bytes with
  | nil => cases h
  | cons op tail =>
    refine ⟨op, ?_⟩
    simp only [decode] at h
    split at h
    next hop => cases h; exact .inl ⟨hop, rfl⟩
    next k n left hop => cases h; exact .inr (.inl ⟨k, n, hop, rfl, rfl⟩)
    next k lo hi left hop => cases h; exact .inr (.inr ⟨k, lo, hi, hop, rfl, rfl⟩)
    all_goals cases h

/-- Settles O6: the encoder agrees with the table entry that was read. -/
theorem encodeOfDecode : Obligations.EncodeOfDecode := by
  intro bytes i rest h
  obtain ⟨op, hcases⟩ := decode_cases h
  have henc := opcodeEntry_encodes op
  obtain ⟨hop, rfl⟩ | ⟨k, n, hop, rfl, rfl⟩ | ⟨k, lo, hi, hop, rfl, rfl⟩ := hcases <;> rw [hop] at henc
  · obtain ⟨he, hwf⟩ := henc
    exact ⟨hwf, by rw [he]; rfl⟩
  · obtain ⟨he, hwf⟩ := henc n
    exact ⟨hwf, by rw [he]; rfl⟩
  · obtain ⟨he, hwf⟩ := henc (concat hi lo)
    exact ⟨hwf, by rw [he, withWord, loByte_concat, hiByte_concat]; rfl⟩

/-! ### The admitted bytes (R90, R91) -/

/-- Three bytes always hold an instruction. -/
theorem exists_decode (op x y : Byte) (rest : List Byte) : ∃ i left, decode (op :: x :: y :: rest) = .ok (i, left) := by
  cases hop : opcodeEntry op with
  | bare i => exact ⟨_, _, decode_bare hop _⟩
  | imm8 k => exact ⟨_, _, decode_imm8 hop _ _⟩
  | imm16 k => exact ⟨_, _, decode_imm16 hop _ _ _⟩

/-- Where the decoder answers the unimplemented instruction, it carries the byte read, which is outside R90. -/
theorem implementedOpcode_of_decode_unimplemented {op z : Byte} {tail left : List Byte}
    (h : decode (op :: tail) = .ok (.unimplemented z, left)) : implementedOpcode op = false := by
  obtain ⟨hwf, hbytes⟩ := encodeOfDecode _ _ _ h
  obtain ⟨rfl, -⟩ := List.cons.inj hbytes
  simpa [Instr.wf] using hwf

/-- Settles O7: the set by counting, its decoding by the two directions of the round trip. -/
theorem admittedOpcodes : Obligations.AdmittedOpcodes := by
  refine ⟨rfl, by decide, fun op x y rest hop => ?_, fun op rest => ?_⟩
  · obtain ⟨i, left, h⟩ := exists_decode op x y rest
    refine ⟨i, left, h, ?_⟩
    rintro z rfl
    rw [implementedOpcode_of_decode_unimplemented h] at hop
    cases hop
  · exact ⟨implementedOpcode_of_decode_unimplemented,
      fun hop => decode_bare ((opcodeEntry_unimplemented_iff op).mpr hop) rest⟩

/-! ### The length (R86) -/

/-- A well-formed instruction is as long as the table entry of its opcode byte says. -/
theorem exists_opcode_length {i : Instr} (hi : i.wf = true) :
    ∃ op, (encode i).head? = some op ∧ i.length = entryLength (opcodeEntry op) := by
  obtain ⟨op, ⟨hop, henc⟩ | ⟨k, n, hop, -, henc⟩ | ⟨k, nn, hop, -, henc⟩⟩ := opcodeEntry_of_encode i hi
  all_goals
    refine ⟨op, ?_⟩
    rw [Instr.length, henc, hop]
    exact ⟨rfl, rfl⟩

theorem entryLength_bounds (e : OpcodeEntry) : 1 ≤ entryLength e ∧ entryLength e ≤ 3 := by
  cases e <;> simp [entryLength]

/-- Settles O8: both lengths are that of the one table entry. -/
theorem lengthFixedByOpcode : Obligations.LengthFixedByOpcode := by
  intro i j hi hj hhead
  obtain ⟨op, hiop, hilen⟩ := exists_opcode_length hi
  obtain ⟨op', hjop, hjlen⟩ := exists_opcode_length hj
  obtain rfl : op = op' := Option.some.inj (hiop.symm.trans (hhead.trans hjop))
  rw [hilen, hjlen]
  exact ⟨rfl, entryLength_bounds _⟩

/-- Settles O4: each word by the kind of its opcode byte's table entry. -/
theorem decodesSpecWords : Obligations.DecodesSpecWords :=
  ⟨decode_bare rfl _, decode_imm8 rfl _ _, decode_bare rfl _, decode_imm16 rfl _ _ _, decode_imm16 rfl _ _ _,
    decode_bare rfl _, decode_bare rfl _, decode_bare rfl _, decode_imm16 rfl _ _ _, decode_imm8 rfl _ _,
    decode_imm16 rfl _ _ _, decode_bare rfl _, decode_bare rfl _, decode_bare rfl _, decode_bare rfl _, decode_bare rfl _⟩

end Sys2Proof.Machine
end

section
/-!
PROOF. The step: it runs the instruction whose bytes stand at PC, and what the opcode byte says of that instruction
(30_encoding.md R80-R86).
-/

namespace Sys2Proof.Machine

/-- The fetched instruction is well formed, its bytes stand at PC, and the fetch moves PC past them (R82, R84). -/
theorem fetchInstr_spec (s : State) :
    (fetchInstr s).1.wf = true ∧ (fetchInstr s).2 = s.setPc (s.pc + BitVec.ofNat 16 (fetchInstr s).1.length) ∧
      ∃ rest, fetchWindow s = encode (fetchInstr s).1 ++ rest := by
  obtain ⟨rest, hdec, hpc⟩ := decode_fetchWindow s
  obtain ⟨hwf, hbytes⟩ := encodeOfDecode _ _ _ hdec
  have hlen : 3 - rest.length = (fetchInstr s).1.length := by
    have h := congrArg List.length hbytes
    rw [List.length_append, ← Instr.length] at h
    simp only [fetchWindow, List.length_cons, List.length_nil] at h
    omega
  exact ⟨hwf, hlen ▸ hpc, rest, hbytes⟩

/-- A step is the execution of the fetched instruction with PC past its bytes. -/
theorem step_eq (s : State) :
    step s = exec (fetchInstr s).1 (s.setPc (s.pc + BitVec.ofNat 16 (fetchInstr s).1.length)) := by
  obtain ⟨-, hpc, -⟩ := fetchInstr_spec s
  rw [step, hpc]

/-- What the decoder reads off the bytes at PC is what the step fetches. -/
theorem fetchInstr_of_decode {s : State} {i : Instr} {rest : List Byte} (h : decode (fetchWindow s) = .ok (i, rest)) :
    (fetchInstr s).1 = i := by
  obtain ⟨rest', hdec, -⟩ := decode_fetchWindow s
  cases hdec.symm.trans h
  rfl

/-- Settles O3: the fetch reads what the decoder reads, and the three bytes are the encoding and the rest. -/
theorem stepRunsDecoded : Obligations.StepRunsDecoded := by
  intro s i rest h
  obtain ⟨-, hbytes⟩ := encodeOfDecode _ _ _ h
  obtain rfl := fetchInstr_of_decode h
  refine ⟨step_eq s, ?_⟩
  rw [Instr.length, ← List.length_append, ← hbytes]
  rfl

/-! ### The fetched instruction by its opcode byte -/

/-- The first byte of the fetched instruction's encoding is the byte at PC. -/
theorem opcode_of_fetchInstr {s : State} {i : Instr} {op : Byte} {operand : List Byte} (hi : (fetchInstr s).1 = i)
    (henc : encode i = op :: operand) : memRead s s.pc = op := by
  obtain ⟨-, -, rest, hbytes⟩ := fetchInstr_spec s
  rw [hi, henc, fetchWindow] at hbytes
  exact (List.cons.inj hbytes).1

theorem fetchInstr_of_bare {s : State} {op : Byte} {i : Instr} (hs : memRead s s.pc = op) (hop : opcodeEntry op = .bare i) :
    (fetchInstr s).1 = i := by
  subst hs
  rw [fetchInstr_eq, hop]

theorem fetchInstr_of_imm16 {s : State} {op : Byte} {k : Word → Instr} (hs : memRead s s.pc = op)
    (hop : opcodeEntry op = .imm16 k) : ∃ nn, (fetchInstr s).1 = k nn := by
  subst hs
  rw [fetchInstr_eq, hop]
  exact ⟨_, rfl⟩

/-- A step fetches the unimplemented instruction only at a byte outside R90 (R91). -/
theorem implementedOpcode_of_fetchInstr {s : State} {op : Byte} (h : (fetchInstr s).1 = .unimplemented op) :
    implementedOpcode (memRead s s.pc) = false := by
  obtain ⟨hwf, -, -⟩ := fetchInstr_spec s
  rw [opcode_of_fetchInstr h rfl]
  rw [h] at hwf
  simpa [Instr.wf] using hwf

/-- A step fetches PUSH or CALL exactly at their five opcode bytes. -/
theorem writesMemory_fetchInstr_iff (s : State) :
    WritesMemory (fetchInstr s).1 ↔ memRead s s.pc ∈ [0xC5, 0xD5, 0xE5, 0xF5, 0xCD] := by
  simp only [List.mem_cons, List.not_mem_nil, or_false]
  constructor
  · rintro (h | h | h | h | ⟨nn, h⟩)
    · exact .inl (opcode_of_fetchInstr h rfl)
    · exact .inr (.inl (opcode_of_fetchInstr h rfl))
    · exact .inr (.inr (.inl (opcode_of_fetchInstr h rfl)))
    · exact .inr (.inr (.inr (.inl (opcode_of_fetchInstr h rfl))))
    · exact .inr (.inr (.inr (.inr (opcode_of_fetchInstr h rfl))))
  · rintro (h | h | h | h | h)
    · exact .inl (fetchInstr_of_bare h rfl)
    · exact .inr (.inl (fetchInstr_of_bare h rfl))
    · exact .inr (.inr (.inl (fetchInstr_of_bare h rfl)))
    · exact .inr (.inr (.inr (.inl (fetchInstr_of_bare h rfl))))
    · exact .inr (.inr (.inr (.inr (fetchInstr_of_imm16 h rfl))))

/-! ### When a step completes (60_exceptions.md R181-R183) -/

/-- No step is refused: every instruction has its meaning. -/
theorem step_ne_refused (s : State) (r : Refusal) : step s ≠ .refused r := by
  intro h
  have he := step_ends s
  rwa [h] at he

/-- Settles O40: by the ways a step ends. A fault is a byte outside R90 or a push that was not allowed. -/
theorem stepCompletesExactly : Obligations.StepCompletesExactly := by
  intro s
  rw [← writesMemory_fetchInstr_iff]
  have he := step_ends s
  constructor
  · rintro ⟨t, h⟩
    rw [h] at he
    refine ⟨?_, fun hw => ?_⟩
    · by_contra hop
      rw [(unimplementedOpcodeStops.1 s (by simpa using hop)).1] at h
      cases h
    · obtain ⟨hnw, -⟩ | ⟨-, hallowed, -⟩ := he
      · exact absurd hw hnw
      · exact hallowed
  · rintro ⟨hop, hallowed⟩
    cases h : step s with
    | next t => exact ⟨t, h⟩
    | refused r => exact absurd h (step_ne_refused s r)
    | fault f =>
      rw [h] at he
      obtain ⟨op, hi, -⟩ | ⟨hw, hnot, -⟩ := he
      · rw [implementedOpcode_of_fetchInstr hi] at hop
        cases hop
      · exact absurd (hallowed hw) hnot

/-- Settles O41: by the ways a step ends, with the address and state of a failed push. -/
theorem stepFaultsExactly : Obligations.StepFaultsExactly := by
  refine ⟨fun s f h => ?_, step_ne_refused⟩
  have he := step_ends s
  obtain ⟨-, hpc, -⟩ := fetchInstr_spec s
  rw [h, hpc] at he
  obtain ⟨op, hi, -⟩ | ⟨hw, -, w, hpush⟩ := he
  · have hop := implementedOpcode_of_fetchInstr hi
    have hstep := (unimplementedOpcodeStops.1 s hop).1
    exact .inl ⟨Host.Outcome.fault.inj (h.symm.trans hstep), hop⟩
  · obtain ⟨hlo, rfl⟩ | ⟨hlo, hhi, rfl⟩ := pushWord_fault hpush
    · exact .inr ⟨_, _, rfl, hw, hlo, rfl, rfl, .inl rfl⟩
    · exact .inr ⟨_, _, rfl, hw, hhi, rfl, rfl, .inr ⟨rfl, hlo⟩⟩

/-! ### The cycle cost (70_reset_and_hazards.md R226) -/

/-- The cost of the instructions a table entry gives, read off at operand 0. -/
def entryCycles : OpcodeEntry → Nat
  | .bare i => cycles i
  | .imm8 k => cycles (k 0)
  | .imm16 k => cycles (k 0)

/-- The cost does not depend on the operand: every instruction of a table entry has the entry's. -/
def CyclesUniform : OpcodeEntry → Prop
  | .bare _ => True
  | .imm8 k => ∀ n, cycles (k n) = cycles (k 0)
  | .imm16 k => ∀ nn, cycles (k nn) = cycles (k 0)

theorem opcodeEntry_cyclesUniform (op : Byte) : CyclesUniform (opcodeEntry op) := by
  unfold opcodeEntry
  split <;> simp [CyclesUniform, cycles]

theorem cycles_fetchInstr (s : State) : cycles (fetchInstr s).1 = entryCycles (opcodeEntry (memRead s s.pc)) := by
  have hu := opcodeEntry_cyclesUniform (memRead s s.pc)
  rw [fetchInstr_eq]
  cases hop : opcodeEntry (memRead s s.pc) <;> rw [hop] at hu
  case bare i => rfl
  case imm8 k => exact hu _
  case imm16 k => exact hu _

/-- The row of LD r,r': the bytes `01 ddd sss` whose fields both name a register. -/
theorem entryCycles_ldRR : ∀ op : Byte, 0x40 ≤ op.toNat → op.toNat ≤ 0x7F → op.toNat % 8 ≠ 6 →
    ¬ (0x70 ≤ op.toNat ∧ op.toNat ≤ 0x77) → entryCycles (opcodeEntry op) = 4 := by
  decide +kernel

theorem cpuStep_snd (s : State) : (cpuStep s).2 = step s := by
  cases h : step s with
  | next t => rw [cpuStep_next h]
  | fault f => rw [cpuStep_fault h]
  | refused r => exact absurd h (step_ne_refused s r)

/-- A completed step reports the cost of its opcode byte's table entry. -/
theorem cpuStep_fst {s t : State} (h : step s = .next t) : (cpuStep s).1 = entryCycles (opcodeEntry (memRead s s.pc)) := by
  rw [cpuStep_next h, cycles_fetchInstr]

/-- Settles O45: each row's cost is read off the table at the row's bytes. -/
theorem cycleCosts : Obligations.CycleCosts := by
  refine ⟨fun s t h => ?_, fun s f h => by rw [cpuStep_fault h], cpuStep_snd⟩
  rw [cpuStep_fst h]
  generalize memRead s s.pc = op
  refine ⟨?_, ?_, entryCycles_ldRR op, ?_, ?_, ?_, ?_, ?_, ?_, ?_, ?_, ?_, ?_⟩
  case refine_1 | refine_7 | refine_8 | refine_9 | refine_10 => rintro rfl; rfl
  all_goals
    revert op
    decide

end Sys2Proof.Machine
end

section
/-!
PROOF. The invariant: every step and every history of steps and host actions keeps it (10_state.md R22, R24;
70_reset_and_hazards.md R215, R216).
-/

namespace Sys2Proof.Machine

/-! ### Steps -/

/-- A completed step writes F through the mask or not at all, and stores bytes through the bus or none. -/
theorem machineInv_step {s t : State} (hs : MachineInv s) (h : step s = .next t) : MachineInv t := by
  obtain ⟨hf, hwf⟩ := hs
  constructor
  · rw [step_eq] at h
    obtain ⟨-, ht⟩ | ⟨-, ht⟩ := exec_f h
    · rw [FlagNibbleZero, ht]
      exact hf
    · exact ht
  · have he := step_ends s
    rw [h] at he
    obtain ⟨-, hbus⟩ | ⟨-, -, w, hbus⟩ := he <;> rw [hbus]
    · exact hwf
    · exact wf_pushedBus hwf

/-- A failed push leaves F and has stored at most its low byte (60_exceptions.md R182). -/
theorem machineInv_pushWord_fault {w : Word} {s : State} {f : Fault} (hs : MachineInv s) (h : pushWord w s = .fault f) :
    MachineInv f.after := by
  obtain ⟨hf, hwf⟩ := hs
  obtain ⟨-, rfl⟩ | ⟨-, -, rfl⟩ := pushWord_fault h
  · exact ⟨hf, hwf⟩
  · exact ⟨hf, wf_busStore hwf⟩

theorem machineInv_step_fault {s : State} {f : Fault} (hs : MachineInv s) (h : step s = .fault f) :
    MachineInv f.after := by
  have he := step_ends s
  rw [h] at he
  obtain ⟨op, -, rfl⟩ | ⟨-, -, w, hw⟩ := he
  · exact hs
  · exact machineInv_pushWord_fault (s := s.setPc (fetchInstr s).2.pc) hs hw

/-- Settles O46: completed and faulted steps, each by the ways a step ends. -/
theorem stepKeepsInvariant : Obligations.StepKeepsInvariant :=
  ⟨fun _ _ => machineInv_step, fun _ _ => machineInv_step_fault⟩

/-! ### Host actions and histories -/

theorem flagNibbleZero_setPair {s : State} (hs : FlagNibbleZero s) (p : Pair) (w : Word) :
    FlagNibbleZero (s.setPair p w) := by
  cases p
  case af => exact masked_low _
  all_goals exact hs

/-- A host action writes F through the mask or not at all (10_state.md R24, R34). -/
theorem flagNibbleZero_hostAct {act : HostAction} {s t : State} (hs : FlagNibbleZero s) (h : hostAct act s = .next t) :
    FlagNibbleZero t := by
  cases act
  case write x v =>
    obtain ⟨-, rfl⟩ := memWrite_next h
    exact hs
  case loadRom bytes =>
    simp only [hostAct, loadRom] at h
    split_ifs at h
    cases h
    exact hs
  all_goals cases h
  case setReg r v => rwa [FlagNibbleZero, State.setReg_f]
  case setF v => exact masked_low v
  case setPair p w => exact flagNibbleZero_setPair hs p w
  case setSp w => exact hs
  case setPc w => exact hs
  case setFlag x q => exact State.flagNibbleZero_setFlag s x q

theorem wf_hostAct {act : HostAction} {s t : State} (hs : s.bus.mem.wf = true) (h : hostAct act s = .next t) :
    t.bus.mem.wf = true := by
  obtain hbus | ⟨x, v, -, -, rfl⟩ | ⟨bytes, -, hload⟩ := hostAct_next h
  · rwa [hbus]
  · exact wf_busStore hs
  · exact wf_loadRom hload hs

/-- A failed host action changes nothing (60_exceptions.md R182, R184). -/
theorem hostAct_fault {act : HostAction} {s : State} {f : Fault} (h : hostAct act s = .fault f) : f.after = s := by
  cases act
  case write | loadRom =>
    simp only [hostAct, memWrite_eq, loadRom] at h
    split_ifs at h
    cases h
    rfl
  all_goals cases h

/-- Settles O47: by induction on the history; an event that fails ends it or changes nothing. -/
theorem historyKeepsInvariant : Obligations.HistoryKeepsInvariant := by
  intro evs
  induction evs with
  | nil =>
    rintro s t hs ⟨⟩
    exact hs
  | cons ev evs ih =>
    intro s t hs h
    cases ev with
    | step =>
      rw [runEvents] at h
      cases hstep : step s <;> rw [hstep] at h
      case next u => exact ih u t (machineInv_step hs hstep) h
      case fault f => cases h
      case refused r => cases h
    | host act =>
      rw [runEvents] at h
      cases hact : hostAct act s <;> rw [hact] at h
      case next u => exact ih u t ⟨flagNibbleZero_hostAct hs.1 hact, wf_hostAct hs.2 hact⟩ h
      case fault f => exact ih f.after t (by rwa [hostAct_fault hact]) h
      case refused r => cases h

/-- Settles O2: F at reset is 0xB0 and the memory is empty. -/
theorem resetInvariant : Obligations.ResetInvariant := ⟨rfl, wf_reset⟩

end Sys2Proof.Machine
end

section
/-!
PROOF. PUSH, CALL and what POP and RET make of it: the whole next state or the fault, and that they undo each other
(42_control.md R142, 43_stack.md R160-R165).
-/

namespace Sys2Proof.Machine

/-! ### The shared push, by where its bytes fall (43_stack.md R161, 60_exceptions.md R182) -/

/-- Neither byte in ROM: both are stored, and SP is 2 less. -/
theorem pushWord_pushedBytes {w : Word} {s : State} (h : PushAllowed s.sp) :
    ∃ t, pushWord w s = .next t ∧ t = { s with sp := s.sp - 2, bus := t.bus } ∧ PushedBytes s t (loByte w) (hiByte w) :=
  ⟨_, pushWord_allowed h, rfl, pushedBytes_pushedBus rfl⟩

/-- The low byte in ROM: nothing is stored. -/
theorem pushWord_low_rom {s : State} (w : Word) (h : (s.sp - 2).toNat ≤ 0x7FFF) :
    pushWord w s = .fault (.writeToReadOnlyRegion (s.sp - 2) { s with sp := s.sp - 2 }) := by
  rw [pushWord_eq, if_pos h]
  rfl

/-- The high byte alone in ROM, which is at SP = 1 only: the low byte has gone to IE. -/
theorem pushWord_sp_one {s : State} (w : Word) (h : s.sp = 0x0001) :
    pushWord w s =
      .fault (.writeToReadOnlyRegion 0x0000 { s with sp := 0xFFFF, bus := { s.bus with ie := loByte w } }) := by
  rw [pushWord_eq, h, if_neg (by decide), if_pos (by decide)]
  rfl

/-! ### PUSH qq (43_stack.md R161, R162) -/

theorem loByte_pair (p : Pair) (s : State) : loByte (s.pair p) = lowOf p s := by rw [pair_eq, loByte_concat]

theorem hiByte_pair (p : Pair) (s : State) : hiByte (s.pair p) = highOf p s := by rw [pair_eq, hiByte_concat]

theorem exec_pushOf_allowed (p : Pair) {s : State} (h : PushAllowed s.sp) :
    ∃ t, exec (pushOf p) s = .next t ∧ t = { s with sp := s.sp - 2, bus := t.bus } ∧
      PushedBytes s t (lowOf p s) (highOf p s) := by
  rw [exec_pushOf, ← loByte_pair, ← hiByte_pair]
  exact pushWord_pushedBytes h

theorem exec_pushOf_low_rom (p : Pair) {s : State} (h : (s.sp - 2).toNat ≤ 0x7FFF) :
    exec (pushOf p) s = .fault (.writeToReadOnlyRegion (s.sp - 2) { s with sp := s.sp - 2 }) := by
  rw [exec_pushOf, pushWord_low_rom _ h]

theorem exec_pushOf_sp_one (p : Pair) {s : State} (h : s.sp = 0x0001) :
    exec (pushOf p) s =
      .fault (.writeToReadOnlyRegion 0x0000 { s with sp := 0xFFFF, bus := { s.bus with ie := lowOf p s } }) := by
  rw [exec_pushOf, pushWord_sp_one _ h, loByte_pair]

theorem decode_pushOf (p : Pair) (rest : List Byte) : decode (opcodePush p :: rest) = .ok (pushOf p, rest) :=
  decode_bare (by cases p <;> rfl) rest

theorem cycles_pushOf (p : Pair) : cycles (pushOf p) = 16 := by cases p <;> rfl

/-- Settles O21: the laws of PUSH at BC, DE and HL. (The model's shared PUSH already has the name `pushPair`.) -/
theorem pushPair_bc_de_hl : Obligations.PushPair :=
  ⟨fun _ => exec_pushOf_allowed .bc, fun _ => exec_pushOf_low_rom .bc, fun _ => exec_pushOf_sp_one .bc,
    fun _ => exec_pushOf_allowed .de, fun _ => exec_pushOf_low_rom .de, fun _ => exec_pushOf_sp_one .de,
    fun _ => exec_pushOf_allowed .hl, fun _ => exec_pushOf_low_rom .hl, fun _ => exec_pushOf_sp_one .hl,
    decode_pushOf .bc [], decode_pushOf .de [], decode_pushOf .hl [],
    cycles_pushOf .bc, cycles_pushOf .de, cycles_pushOf .hl⟩

/-- Settles O22: the laws of PUSH at AF; the low byte it stores is F, whose low nibble is 0 under the invariant. -/
theorem pushAccumulatorAndFlags : Obligations.PushAccumulatorAndFlags := by
  refine ⟨fun _ => exec_pushOf_allowed .af, fun _ => exec_pushOf_low_rom .af, fun _ => exec_pushOf_sp_one .af,
    fun s t hs h hmapped => ?_, decode_pushOf .af [], cycles_pushOf .af⟩
  obtain ⟨hf, hwf⟩ := hs
  obtain ⟨hallowed, -⟩ := pushWord_next (h : pushWord (s.pair .af) s = .next t)
  obtain ⟨u, hu, -, hbytes⟩ := exec_pushOf_allowed .af hallowed
  cases hu.symm.trans h
  rw [(hbytes.1 hwf).1 _ (.inl rfl), if_neg hmapped]
  exact hf

/-! ### CALL nn (42_control.md R142) -/

theorem exec_call_nn (nn : Word) (s : State) :
    exec (.call_nn nn) s = andThen (pushWord s.pc s) fun t => .next (t.setPc nn) := rfl

/-- Inversion of a completed CALL: SP and the bus are as its push left them. -/
theorem exec_call_nn_next {nn : Word} {s t : State} (h : exec (.call_nn nn) s = .next t) :
    t.bus = pushedBus s.pc s ∧ t.sp = s.sp - 2 := by
  rw [exec_call_nn] at h
  cases hp : pushWord s.pc s <;> rw [hp] at h
  case next u =>
    obtain ⟨-, rfl⟩ := pushWord_next hp
    cases h
    exact ⟨rfl, rfl⟩
  case fault f => cases h
  case refused r => cases h

/-- Settles O19: the push of PC by where its bytes fall, then the jump. -/
theorem callSubroutine : Obligations.CallSubroutine := by
  refine ⟨fun nn s h => ?_, fun nn s h => ?_, fun nn s h => ?_, fun _ _ _ => decode_imm16_of_toNat rfl, fun _ => rfl⟩
  · rw [exec_call_nn, pushWord_allowed h, ← loByte_eq_ofNat, ← hiByte_eq_ofNat]
    exact ⟨_, rfl, rfl, pushedBytes_pushedBus rfl⟩
  · rw [exec_call_nn, pushWord_low_rom _ h, andThen_fault]
  · rw [exec_call_nn, pushWord_sp_one _ h, andThen_fault, loByte_eq_ofNat]

/-! ### Undoing a push (42_control.md R143, 43_stack.md R163, R164) -/

/-- Settles O48: RET pops the word that CALL pushed. -/
theorem callThenReturn : Obligations.CallThenReturn := by
  intro nn s t hwf hlo hhi h
  obtain ⟨hbus, hsp⟩ := exec_call_nn_next h
  calc exec .ret t
    _ = .next ((popWord t).2.setPc (popWord t).1) := rfl
    _ = .next { t with pc := s.pc, sp := s.sp } := by rw [popWord_pushed hwf hlo hhi hbus hsp]; rfl

/-- Under the invariant the mask of POP AF gives F back (10_state.md R24). -/
theorem and_mask_of_flagNibbleZero {s : State} (h : FlagNibbleZero s) : s.f &&& 0xF0 = s.f := by
  calc s.f &&& 0xF0
    _ = s.f &&& 0xF0 ||| s.f &&& 0x0F := by rw [h]; exact BitVec.or_zero.symm
    _ = s.f &&& 0xFF := BitVec.and_or_distrib_left.symm
    _ = s.f := BitVec.and_allOnes

/-- Writing a pair's own two bytes back changes nothing, into AF because the mask does not. -/
theorem setPair_own_bytes {s : State} (hs : FlagNibbleZero s) (p : Pair) (b : Bus) :
    (s.setBus b).setPair p (concat (highOf p s) (lowOf p s)) = s.setBus b := by
  cases p
  case bc => exact State.setPair_bc_concat _ _ _
  case de => exact State.setPair_de_concat _ _ _
  case hl => exact State.setPair_hl_concat _ _ _
  case af => rw [State.setPair_af_concat, lowOf, and_mask_of_flagNibbleZero hs]; rfl

/-- Settles O49: a POP gives its pair the pushed word; the pushed pair gets its own bytes. -/
theorem pushThenPop : Obligations.PushThenPop := by
  refine ⟨fun p s t hwf hlo hhi h => ?_, fun p s t hs hlo hhi h => ?_⟩
  · have hpop (q : Pair) := exec_popOf_pushed q hwf hlo hhi h
    exact ⟨(hpop .bc).trans (congrArg _ (State.setPair_bc_concat _ _ _)),
      (hpop .de).trans (congrArg _ (State.setPair_de_concat _ _ _)),
      (hpop .hl).trans (congrArg _ (State.setPair_hl_concat _ _ _)),
      (hpop .af).trans (congrArg _ (State.setPair_af_concat _ _ _))⟩
  · obtain ⟨hf, hwf⟩ := hs
    rw [exec_popOf_pushed p hwf hlo hhi h]
    rw [exec_pushOf] at h
    obtain ⟨-, rfl⟩ := pushWord_next h
    exact congrArg _ (setPair_own_bytes hf p _)

/-! ### A stack at unmapped addresses (43_stack.md R160) -/

theorem unmapped_gt_rom {x : Addr} (h : Unmapped x) : 0x8000 ≤ x.toNat := by
  simp only [Unmapped] at h
  omega

theorem pushWord_unmapped {s : State} (w : Word) (hlo : Unmapped (s.sp - 2)) (hhi : Unmapped (s.sp - 1)) :
    pushWord w s = .next { s with sp := s.sp - 2 } := by
  rw [pushWord_allowed ⟨unmapped_gt_rom hlo, unmapped_gt_rom hhi⟩, pushedBus_unmapped hlo hhi]
  rfl

/-- Settles O50: the shared push and the shared pop at unmapped addresses. -/
theorem unmappedStackDiscards : Obligations.UnmappedStackDiscards := by
  refine ⟨fun s hlo hhi => ⟨fun p => ?_, fun nn => ?_⟩, fun s hlo hhi => ?_⟩
  · rw [exec_pushOf, pushWord_unmapped _ hlo hhi]
  · rw [exec_call_nn, pushWord_unmapped _ hlo hhi]
    rfl
  · have hpop (p : Pair) : exec (popOf p) s = .next ((s.setSp (s.sp + 2)).setPair p (concat 0xFF 0xFF)) := by
      rw [exec_popOf, popWord_unmapped hlo hhi]
    refine ⟨hpop .bc, hpop .de, hpop .hl, hpop .af, ?_⟩
    rw [exec_ret, memRead_unmapped s hlo, memRead_unmapped s hhi]
    rfl

/-- Settles O13: LD SP,nn writes SP alone, and its operand stands low byte first. -/
theorem loadStackPointer : Obligations.LoadStackPointer :=
  ⟨fun _ _ => rfl, fun _ _ _ => decode_imm16_of_toNat rfl, fun _ => rfl⟩

end Sys2Proof.Machine
end

section
/-!
PROOF. The frames of the whole machine: which instructions change F, memory, SP and PC (10_state.md R28, R31;
60_exceptions.md R182; 42_control.md R144).
-/

namespace Sys2Proof.Machine

/-- Settles O37: a completed execution that writes no flag leaves F. -/
theorem flagsChangeOnlyByFlagWriters : Obligations.FlagsChangeOnlyByFlagWriters := by
  intro i s t h hi
  obtain ⟨-, hf⟩ | ⟨hw, -⟩ := exec_f h
  · exact hf
  · exact absurd hw hi

/-- Settles O38: a completed execution that is no PUSH or CALL leaves the bus. -/
theorem memoryChangesOnlyByPushAndCall : Obligations.MemoryChangesOnlyByPushAndCall := by
  intro i s t h hi
  have he := exec_ends i s
  rw [h] at he
  obtain ⟨-, hbus⟩ | ⟨hw, -⟩ := he
  · exact ⟨hbus, fun x => congrArg (busRead · x) hbus⟩
  · exact absurd hw hi

/-! ### SP and PC (10_state.md R31, 42_control.md R144) -/

/-- The instructions that write SP: those of the stack, and LD SP,nn (10_state.md R31). -/
def MovesSp (i : Instr) : Prop := WritesMemory i ∨ ReadsStack i ∨ ∃ nn, i = .ld_SP_nn nn

/-- A completed execution writes SP and PC, each, only if the instruction is one that does. -/
def PointersEnd (i : Instr) (s : State) : Result → Prop
  | .next t => (MovesSp i ∨ t.sp = s.sp) ∧ (TransfersControl i ∨ t.pc = s.pc)
  | .fault _ | .refused _ => True

theorem pointersEnd_pushWord {i : Instr} (hi : WritesMemory i) (w : Word) (s : State) :
    PointersEnd i s (pushWord w s) := by
  cases h : pushWord w s with
  | next t =>
    obtain ⟨-, rfl⟩ := pushWord_next h
    exact ⟨.inl (.inl hi), .inr rfl⟩
  | fault f => trivial
  | refused r => trivial

/-- CALL and RET write both, so nothing is asked of their result. -/
theorem pointersEnd_of_moves {i : Instr} (hsp : MovesSp i) (hpc : TransfersControl i) (s : State) (r : Result) :
    PointersEnd i s r := by
  cases r with
  | next t => exact ⟨.inl hsp, .inl hpc⟩
  | fault f => trivial
  | refused r => trivial

theorem exec_pointersEnd (i : Instr) (s : State) : PointersEnd i s (exec i s) := by
  cases i
  case push_BC | push_DE | push_HL | push_AF => exact pointersEnd_pushWord (by simp [WritesMemory]) _ s
  case pop_BC | pop_DE | pop_HL | pop_AF => exact ⟨.inl (.inr (.inl (by simp [ReadsStack]))), .inr rfl⟩
  case ld_SP_nn nn => exact ⟨.inl (.inr (.inr ⟨nn, rfl⟩)), .inr rfl⟩
  case call_nn nn =>
    exact pointersEnd_of_moves (.inl (by simp [WritesMemory])) (by simp [TransfersControl]) s _
  case ret => exact pointersEnd_of_moves (.inr (.inl (by simp [ReadsStack]))) (.inl rfl) s _
  case jr_e e => exact ⟨.inr rfl, .inl (by simp [TransfersControl])⟩
  case jp_nn nn => exact ⟨.inr rfl, .inl (by simp [TransfersControl])⟩
  case unimplemented => trivial
  all_goals exact ⟨.inr rfl, .inr rfl⟩

/-- Settles O39: by what a completed execution does to SP and PC. -/
theorem stackPointerAndPcMovers : Obligations.StackPointerAndPcMovers := by
  intro i s t h
  have he := exec_pointersEnd i s
  rw [h] at he
  obtain ⟨hsp, hpc⟩ := he
  exact ⟨hsp.resolve_right, hpc.resolve_right⟩

end Sys2Proof.Machine
end

section
/-!
PROOF. The host: neighbouring bytes, the boot, the placing of one instruction, and the end of histories and runs
(20_memory.md R61; 70_reset_and_hazards.md R213, R217; 60_exceptions.md R181).
-/

namespace Sys2Proof.Machine

/-! ### Bytes near each other (20_memory.md R53, R61) -/

theorem sameByte_comm {x y : Addr} : SameByte x y ↔ SameByte y x := by
  rw [SameByte, SameByte, eq_comm, or_comm (a := _ ∧ _)]

/-- Addresses less than the echo's distance 0x2000 apart, around the wrap too, never reach the same byte. -/
theorem not_sameByte_add {x d : Addr} (hd : d ≠ 0) (hlt : d.toNat < 0x2000) : ¬ SameByte (x + d) x := by
  have hx := x.isLt
  have hpos : d.toNat ≠ 0 := fun h => hd (BitVec.eq_of_toNat_eq h)
  simp only [SameByte, ← BitVec.toNat_inj, BitVec.toNat_add]
  omega

theorem not_sameByte_self_add {x d : Addr} (hd : d ≠ 0) (hlt : d.toNat < 0x2000) : ¬ SameByte x (x + d) :=
  mt sameByte_comm.mp (not_sameByte_add hd hlt)

/-- Settles O30: an address and the next are never the same byte. -/
theorem neighbourBytesNeverAlias : Obligations.NeighbourBytesNeverAlias := by
  intro b x v
  exact ⟨busRead_busStore_other (not_sameByte_add (by decide) (by decide)),
    busRead_busStore_other (not_sameByte_self_add (by decide) (by decide))⟩

/-! ### The boot (R213) -/

/-- Settles O44: `load_rom` at the construction state. -/
theorem bootPlacesImage : Obligations.BootPlacesImage := by
  intro image himage
  obtain ⟨t, hload, ht, -, hread, -⟩ := loadRomCopies.2 image State.reset himage wf_reset
  exact ⟨t, hload, ht, by rw [ht]; rfl, hread⟩

/-! ### The placing of one instruction (log 8) -/

/-- Three bytes placed where all three addresses are mapped read back from there. -/
theorem busRead_placeBytes {b : Bus} {pc : Addr} (hb : b.mem.wf = true) (hpc : holdsInstr pc = true) (x y z : Byte) :
    busRead (placeBytes b pc [x, y, z]) pc = x ∧ busRead (placeBytes b pc [x, y, z]) (pc + 1) = y ∧
      busRead (placeBytes b pc [x, y, z]) (pc + 2) = z := by
  simp only [holdsInstr, Bool.and_eq_true, bne_iff_ne] at hpc
  obtain ⟨⟨h₀, h₁⟩, h₂⟩ := hpc
  have e₂ : pc + 1 + 1 = pc + 2 := by bv_omega
  have n₀₁ : ¬ SameByte pc (pc + 1) := not_sameByte_self_add (by decide) (by decide)
  have n₀₂ : ¬ SameByte pc (pc + 2) := not_sameByte_self_add (by decide) (by decide)
  have n₁₂ : ¬ SameByte (pc + 1) (pc + 2) := e₂ ▸ not_sameByte_self_add (by decide) (by decide)
  simp only [placeBytes, e₂]
  refine ⟨?_, ?_, ?_⟩
  · rw [busRead_busStore_other n₀₂, busRead_busStore_other n₀₁, busRead_busStore_same hb h₀]
  · rw [busRead_busStore_other n₁₂, busRead_busStore_same (wf_busStore hb) h₁]
  · rw [busRead_busStore_same (wf_busStore (wf_busStore hb)) h₂]

theorem placeInstr_bus (s : State) (bytes : List Byte) :
    (placeInstr s bytes).bus = placeBytes s.bus (placeInstr s bytes).pc bytes := rfl

/-- After the placing, the bytes at PC are the ones placed: the PC it chooses holds an instruction. -/
theorem fetchWindow_placeInstr {s : State} (hs : s.bus.mem.wf = true) (x y z : Byte) :
    fetchWindow (placeInstr s [x, y, z]) = [x, y, z] := by
  have hpc : holdsInstr (placeInstr s [x, y, z]).pc = true := by
    simp only [placeInstr, State.setBus_pc, State.setPc_pc]
    split
    next h => exact h
    next => decide
  obtain ⟨hx, hy, hz⟩ := busRead_placeBytes hs hpc x y z
  rw [fetchWindow, memRead, memRead, memRead, placeInstr_bus, hx, hy, hz]

/-- Settles O52: the bytes at PC are the table word's, and a step runs what is decoded there. -/
theorem placedInstructionRuns : Obligations.PlacedInstructionRuns := by
  intro s nbits w i hs hi
  have hwindow : fetchWindow (s.withFetchWord nbits w) = tableBytes nbits w := fetchWindow_placeInstr hs _ _ _
  rw [decodeTableWord] at hi
  split at hi
  next j rest hdec =>
    cases hi
    rw [← hwindow] at hdec
    exact (stepRunsDecoded _ _ _ hdec).1
  next => cases hi

/-! ### The end of histories and runs (R181, R217) -/

/-- A run that ends in a state ends where its end condition holds. -/
theorem runUntil_next {endOfRun : State → Bool} {bound : Nat} {s t : State}
    (h : runUntil endOfRun bound s = some (.next t)) : endOfRun t = true := by
  induction bound generalizing s with
  | zero =>
    rw [runUntil] at h
    split at h
    next hend => cases h; exact hend
    next => cases h
  | succ bound ih =>
    rw [runUntil] at h
    split at h
    next hend => cases h; exact hend
    next =>
      cases hstep : step s <;> simp only [hstep] at h
      case next u => exact ih h
      case fault f => cases h
      case refused r => cases h

/-- Settles O51: an error is passed on by the history and by the run, which answers a state at its end condition only. -/
theorem stepErrorEndsHistory : Obligations.StepErrorEndsHistory := by
  refine ⟨fun evs s f h => ?_, fun endOfRun bound s f hend h => ?_, fun _ _ _ _ => runUntil_next⟩
  · rw [runEvents, h, andThen_fault]
  · simp only [runUntil, hend, h, Bool.false_eq_true, if_false]

end Sys2Proof.Machine
end
